-- ==== Sys2Proof/Word.lean ====
section
/-! DEFINITION. The word types of the block: a byte (rule R7) and the 16-bit command word (rule R68). -/

namespace Sys2Proof

/-- A byte. Its bits are numbered 7 (most significant) down to 0 (rule R7). -/
abbrev Byte := BitVec 8

/-- The command word the host presents at the command port: one length, one layout (rule R68). -/
abbrev CommandWord := BitVec 16

end Sys2Proof
end

