-- ==== Sys2Proof/Syntax.lean ====
section
/-! DEFINITION. The instructions of the block: its nine operations (rule R67), one constructor per row of spec/opcode_table.json. -/

namespace Sys2Proof

/-- The nine operations of rule R67. Only `BUS_WRITE_BYTE` carries an operand in its command word (format B of rule R68).
The operands `ptr` and `len` of the format M operations are not in the word: the host writes them to `ARG_PTR` and
`ARG_LEN` before it issues the operation (R12, R68, R76). -/
inductive Instr where
  /-- `BUS_INIT`, rule R101. -/
  | busInit
  /-- `BUS_START`, rule R102. -/
  | busStart
  /-- `BUS_STOP`, rule R103. -/
  | busStop
  /-- `BUS_WRITE_BYTE b`, rule R104. -/
  | busWriteByte (data : Byte)
  /-- `BUS_READ_BYTE`, rule R105. -/
  | busReadByte
  /-- `BUS_READ_BUFFER ptr, len`, rule R106. -/
  | busReadBuffer
  /-- `RF_INIT`, rule R131. -/
  | rfInit
  /-- `RF_TRANSMIT_BUFFER ptr, len`, rule R133. -/
  | rfTransmitBuffer
  /-- `RF_TRANSMIT_PACKET ptr, len`, rule R134: a legal word for an unimplemented operation. -/
  | rfTransmitPacket
  deriving DecidableEq, Repr

end Sys2Proof
end

