-- ==== Sys2Proof/Config.lean ====
section
/-! DEFINITION. The implementation parameters of rule R6 and the free values the model draws where the spec leaves a value open. -/

namespace Sys2Proof

/-- The parameters of rule R6. "A parameter marked OPEN is an argument of the model": the machine's state carries one
`Params`, no step changes it, and a statement about every state is a statement about every choice of parameters.
Durations are whole numbers of nanoseconds; no rule depends on one (rule R208). -/
structure Params where
  /-- `ADDR_BITS`, the width of a buffer address (OPEN). -/
  addrBits : Nat
  /-- `LEN_BITS`, the width of a buffer length operand (OPEN). -/
  lenBits : Nat
  /-- `LEAD_IN_TICKS`, written N: the number of ticks spent in state LEAD_IN (OPEN, N >= 1). -/
  leadInTicks : Nat
  /-- `T_HALF`. `T_HIGH` is twice it, so this one number stands for both (R6: `T_HALF = T_HIGH / 2`). -/
  tHalf : Nat
  /-- `T_LOW`, the clock low phase and the gaps inside `start` and `stop`. -/
  tLow : Nat
  /-- `BIT_RATE`, radio data bits per second (OPEN). -/
  bitRate : Nat
  deriving DecidableEq, Repr

namespace Params

/-- `T_HIGH`, the clock high phase of one bus clock pulse (R6). -/
def tHigh (p : Params) : Nat := 2 * p.tHalf

/-- `TICK_RATE = 2 * BIT_RATE`: two timer interrupts per data bit (R6, conflict C2). -/
def tickRate (p : Params) : Nat := 2 * p.bitRate

/-- The size of the buffer memory in bytes, `2^ADDR_BITS` (R40, R41). -/
def space (p : Params) : Nat := 2 ^ p.addrBits

/-- The parameters at the values the spec's defaults and examples use: T_HIGH = T_LOW = 5 microseconds (the defaults of
R6), N = 20 (the source's example), ADDR_BITS = 16 and LEN_BITS = 8 (the programs of 95_test_vectors.md), and
BIT_RATE = 1000, for which the spec has no number. DESIGN CHOICE, log entry 2; unsafe if leaned on. -/
def default : Params :=
  { addrBits := 16, lenBits := 8, leadInTicks := 20, tHalf := 2500, tLow := 5000, bitRate := 1000 }

end Params

/-- A bit nothing constrains: the answer of ENV to a `pin_read` that the environment's list does not give (R85), and the
sampled level between two operations (R12). Log entries 5 and 6. -/
opaque Config.freeBit : Nat → Bool

/-- A byte nothing constrains: `sh` after an operation that used it (R12). Log entry 6. -/
opaque Config.freeByte : Nat → Byte

/-- Four bits nothing constrains: `i` after an operation that used it (R12). Log entry 6. -/
opaque Config.freeNibble : Nat → BitVec 4

/-- A number nothing constrains: `k` after an operation that used it (R12), log entry 6, and how many free choices of who
moves pass before a fair round (R165), log entry 4. -/
opaque Config.freeNat : Nat → Nat

/-- A choice among three agents that nothing constrains: who moves next where the list of turns does not say and more
than one agent can move (R48, R165). Log entry 4. -/
opaque Config.freeTurn : Nat → Fin 3

end Sys2Proof
end

