-- ==== Sys2Proof/WellFormed.lean ====
section
/-! DEFINITION. What counts as well formed: an instruction, a choice of parameters (rule R6), and the operands a host may
give an operation or a pseudo-instruction (rules R41, R63, R133). -/

namespace Sys2Proof

/-- Every term of `Instr` is an operation the block has: the one operand an instruction carries is eight bits by its
type, and every value of it is a legal bus byte (rule R72). -/
def WellFormed (i : Instr) : Bool :=
  match i with
  | .busInit => true
  | .busStart => true
  | .busStop => true
  | .busWriteByte _ => true
  | .busReadByte => true
  | .busReadBuffer => true
  | .rfInit => true
  | .rfTransmitBuffer => true
  | .rfTransmitPacket => true

/-- The constraints rule R6 and the table of open parameters in 92_eei_decisions.md put on the parameters. -/
def Params.wf (p : Params) : Bool :=
  decide (1 ≤ p.addrBits) && decide (1 ≤ p.lenBits) && decide (1 ≤ p.leadInTicks) && decide (0 < p.tHalf) &&
    decide (0 < p.tLow) && decide (0 < p.bitRate)

/-- A buffer of `len` bytes at `ptr` lies inside the address space: no address of it passes the top (rule R41). -/
def Params.bufferFits (p : Params) (ptr len : Nat) : Bool := decide (ptr + len ≤ p.space)

/-- `ptr` fits `ARG_PTR` and `len` fits `ARG_LEN` (rule R12). -/
def Params.operandsFit (p : Params) (ptr len : Nat) : Bool :=
  decide (ptr < 2 ^ p.addrBits) && decide (len < 2 ^ p.lenBits)

/-- A bus device address fits its seven bits (rule R63, 93_implementation_defined.md U9). -/
def deviceAddressOk (a : Nat) : Bool := decide (a ≤ 0x7F)

end Sys2Proof
end

