-- ==== Sys2Proof/Decode.lean ====
section
/-! DEFINITION. Decoding of command words (rules R68, R69, R71), then the encoder and the opcode table written from the same rules. -/

namespace Sys2Proof

/-- Why a command word is illegal, in the words of rule R71. -/
inductive IllegalWord where
  /-- `op` is 0x0, 0x7 or 0xB to 0xF. -/
  | reservedOp (op : BitVec 4)
  /-- The `zero` field is not 0000. -/
  | zeroFieldSet (zero : BitVec 4)
  /-- The `data` field is not zero in a format N or M word. -/
  | dataFieldSet (data : Byte)
  deriving DecidableEq, Repr

/-- The `op` field, bits 15:12 (R68). -/
def opField (w : CommandWord) : BitVec 4 := w.extractLsb' 12 4

/-- The `zero` field, bits 11:8 (R68). -/
def zeroField (w : CommandWord) : BitVec 4 := w.extractLsb' 8 4

/-- The `data` field, bits 7:0 (R68). -/
def dataField (w : CommandWord) : Byte := w.extractLsb' 0 8

/-- A word of format N or M stands for `i` only if its `data` field is zero (R68, R71). -/
def withoutData (w : CommandWord) (i : Instr) : Except IllegalWord Instr :=
  if dataField w = 0 then .ok i else .error (.dataFieldSet (dataField w))

/-- The operation an `op` number names, before the other fields are checked (R69). -/
def decodeOp (w : CommandWord) : Except IllegalWord Instr :=
  match (opField w).toNat with
  | 0x1 => withoutData w .busInit
  | 0x2 => withoutData w .busStart
  | 0x3 => withoutData w .busStop
  | 0x4 => .ok (.busWriteByte (dataField w))
  | 0x5 => withoutData w .busReadByte
  | 0x6 => withoutData w .busReadBuffer
  | 0x8 => withoutData w .rfInit
  | 0x9 => withoutData w .rfTransmitBuffer
  | 0xA => withoutData w .rfTransmitPacket
  | _ => .error (.reservedOp (opField w))

/-- An `op` number that names no operation: 0x0, 0x7 and 0xB to 0xF (R69, R71). -/
def opReserved (op : BitVec 4) : Bool := op == 0x0 || op == 0x7 || decide (0xB ≤ op.toNat)

/-- Decoding of a command word: total, every illegal word rejected by name (R69, R71). -/
def decode (w : CommandWord) : Except IllegalWord Instr :=
  if opReserved (opField w) then .error (.reservedOp (opField w))
  else if zeroField w = 0 then decodeOp w
  else .error (.zeroFieldSet (zeroField w))

/-- The `op` number of an operation (R69). -/
def opNumber (i : Instr) : BitVec 4 :=
  match i with
  | .busInit => 0x1
  | .busStart => 0x2
  | .busStop => 0x3
  | .busWriteByte _ => 0x4
  | .busReadByte => 0x5
  | .busReadBuffer => 0x6
  | .rfInit => 0x8
  | .rfTransmitBuffer => 0x9
  | .rfTransmitPacket => 0xA

/-- The `data` field of an operation's word: the byte operand of format B, zero in formats N and M (R68). -/
def dataOf (i : Instr) : Byte :=
  match i with
  | .busInit => 0
  | .busStart => 0
  | .busStop => 0
  | .busWriteByte b => b
  | .busReadByte => 0
  | .busReadBuffer => 0
  | .rfInit => 0
  | .rfTransmitBuffer => 0
  | .rfTransmitPacket => 0

/-- The command word of an operation: `op || 0000 || data` (R68). -/
def encode (i : Instr) : CommandWord := opNumber i ++ (0 : BitVec 4) ++ dataOf i

/-- A row of the opcode map of rule R69. -/
structure OpcodeRow where
  mnemonic : String
  wordMatch : CommandWord
  wordMask : CommandWord
  deriving DecidableEq, Repr

/-- The rows of rule R69 in its order, reserved numbers left out. -/
def opcodeTable : List OpcodeRow :=
  [⟨"BUS_INIT", 0x1000, 0xFFFF⟩, ⟨"BUS_START", 0x2000, 0xFFFF⟩, ⟨"BUS_STOP", 0x3000, 0xFFFF⟩,
   ⟨"BUS_WRITE_BYTE", 0x4000, 0xFF00⟩, ⟨"BUS_READ_BYTE", 0x5000, 0xFFFF⟩, ⟨"BUS_READ_BUFFER", 0x6000, 0xFFFF⟩,
   ⟨"RF_INIT", 0x8000, 0xFFFF⟩, ⟨"RF_TRANSMIT_BUFFER", 0x9000, 0xFFFF⟩, ⟨"RF_TRANSMIT_PACKET", 0xA000, 0xFFFF⟩]

/-- "A word w selects a row when `w & mask = match`" (R69). -/
def OpcodeRow.selects (r : OpcodeRow) (w : CommandWord) : Bool := w &&& r.wordMask == r.wordMatch

/-- The mnemonic of an operation as rule R67 spells it. -/
def mnemonic (i : Instr) : String :=
  match i with
  | .busInit => "BUS_INIT"
  | .busStart => "BUS_START"
  | .busStop => "BUS_STOP"
  | .busWriteByte _ => "BUS_WRITE_BYTE"
  | .busReadByte => "BUS_READ_BYTE"
  | .busReadBuffer => "BUS_READ_BUFFER"
  | .rfInit => "RF_INIT"
  | .rfTransmitBuffer => "RF_TRANSMIT_BUFFER"
  | .rfTransmitPacket => "RF_TRANSMIT_PACKET"

/-- The instruction the decoder reads from the `nbits` low bits of `w`, numbered as spec/opcode_table.json numbers them:
one 16-bit word. A number that does not fit one command word is none. -/
def decodeTableWord (nbits w : Nat) : Option Instr :=
  if w % 2 ^ nbits < 2 ^ 16 then (decode (BitVec.ofNat 16 (w % 2 ^ nbits))).toOption else none

end Sys2Proof
end

