-- ==== Sys2Proof/Machine/State.lean ====
section
/-! DEFINITION. The state of the block as plain data (10_state.md), the inputs of the agents outside it, the reasons a step can stop, and reset (rule R22). -/

namespace Sys2Proof.Machine

/-- A level on a line: low or high (R7). -/
inductive Level where
  | L
  | H
  deriving DecidableEq, Repr

/-- The three drive states of a bus line (R11, R80). There is no driven-high state. -/
inductive Drive where
  /-- Tri-stated input: the pin drives nothing. -/
  | Z
  /-- Input with pull-up: the brief intermediate state of `start`. -/
  | PU
  /-- Driven low. -/
  | D0
  deriving DecidableEq, Repr

/-- The two drive states of RF_OUT: "`drv_RF` never takes `PU`" (R11). -/
inductive RfDrive where
  | Z
  | D0
  deriving DecidableEq, Repr

/-- The two bus lines. -/
inductive Line where
  | SCL
  | SDA
  deriving DecidableEq, Repr

/-- The radio lifecycle phase, six values in the source's table order (R14, R73). Being an enumeration it cannot hold the
codes 6 and 7 (93_implementation_defined.md U12). -/
inductive RfState where
  | IDLE
  | START
  | LEAD_IN
  | BIT_PHASE1
  | BIT_PHASE2
  | END
  deriving DecidableEq, Repr

/-- The names of the nine operations of R67, for the operation half of `fg_pc`. -/
inductive Op where
  | busInit
  | busStart
  | busStop
  | busWriteByte
  | busReadByte
  | busReadBuffer
  | rfInit
  | rfTransmitBuffer
  | rfTransmitPacket
  deriving DecidableEq, Repr

/-- `fg_pc`: `READY`, or a pair (operation, micro-step index) while an operation runs (R13). -/
inductive FgPc where
  | ready
  | running (op : Op) (index : Nat)
  deriving DecidableEq, Repr

/-- The agents that take turns (R10). A turn of `tick` is one period of TIMER: it lets TICK step where a tick is possible.
ENV has no turn of its own: it answers reads. -/
inductive Agent where
  | host
  | fg
  | tick
  deriving DecidableEq, Repr

/-- What the host can do to the block (R10, R12, R17, R40, R76). -/
inductive HostAct where
  /-- Present a command word at the command port. Waits for `fg_pc = READY`. -/
  | issue (word : CommandWord)
  /-- Write `ARG_PTR`. Waits for `fg_pc = READY`. -/
  | writePtr (ptr : Nat)
  /-- Write `ARG_LEN`. Waits for `fg_pc = READY`. -/
  | writeLen (len : Nat)
  /-- Set or clear global interrupt delivery, at any time. -/
  | setGie (on : Bool)
  /-- Store a byte to the host's own memory, at any time. -/
  | store (addr : Nat) (value : Byte)
  deriving DecidableEq, Repr

/-- Buffer memory as (address, byte) pairs, addresses strictly rising, no entry equal to what an unlisted address reads as
(`Memory.wf`, Machine/Ops.lean). -/
abbrev Memory := List Host.Cell

/-- The state of the block, the parameters it is instantiated with, and the inputs its environment will give it.
INVENTORY.md lists every field with its rule and its reset value. -/
structure State where
  /-- The parameters of R6. No step changes them. -/
  params : Params
  /-- `drv_SCL` (R11). -/
  drvSCL : Drive
  /-- `drv_SDA` (R11). -/
  drvSDA : Drive
  /-- `drv_RF` (R11). -/
  drvRF : RfDrive
  /-- `ARG_BYTE` (R12). -/
  argByte : Byte
  /-- `ARG_PTR`, `ADDR_BITS` bits (R12). -/
  argPtr : Nat
  /-- `ARG_LEN`, `LEN_BITS` bits (R12). -/
  argLen : Nat
  /-- `sh`, the shift register (R12). -/
  sh : Byte
  /-- `i`, the bit counter inside one byte (R12). -/
  i : BitVec 4
  /-- `k`, the byte counter of `read_buffer`, `LEN_BITS` bits (R12). -/
  k : Nat
  /-- `s`, the last sampled level of SDA (R12). -/
  sample : Level
  /-- `RES_STATUS` (R12, R70). -/
  resStatus : BitVec 2
  /-- `RES_ACK` (R12, R70). -/
  resAck : BitVec 1
  /-- `RES_BYTE` (R12, R70). -/
  resByte : Byte
  /-- `fg_pc` (R13). -/
  fgPc : FgPc
  /-- `rf_state` (R14). -/
  rfState : RfState
  /-- `tx_buf` (R15). -/
  txBuf : Nat
  /-- `tx_len` (R15). -/
  txLen : Nat
  /-- `byte_idx` (R15). -/
  byteIdx : Nat
  /-- `bit_idx` (R15). -/
  bitIdx : Nat
  /-- `leadin_cnt` (R15). -/
  leadinCnt : Nat
  /-- `timer_on` (R17). -/
  timerOn : Bool
  /-- `GIE` (R17). -/
  gie : Bool
  /-- Buffer memory (R18, R40). -/
  mem : Memory
  /-- What HOST will do, first act first (R10). The model's own field, log entry 3. -/
  hostQ : List HostAct
  /-- What ENV will answer to the coming `pin_read`s of a released line, first answer first (R85). The model's own field,
  log entry 5. -/
  envQ : List Level
  /-- Who moves in the coming steps (R48). The model's own field, log entry 4. -/
  turns : List Agent
  /-- How many more free choices of who moves may pass before the next fair round (R165). None before the number is drawn.
  The model's own field, log entry 4. -/
  fairIn : Option Nat
  /-- Counts the free values drawn so far. The model's own field, log entries 4 to 6. -/
  freeCtr : Nat
  deriving DecidableEq, Repr

/-- Why the machine stops with a fault. The block itself has no fault (R160): each of these marks a state no run from
reset reaches, in which the spec gives the step no meaning. All are safe: the model stops where the spec says nothing. -/
inductive Fault where
  /-- `MemRead` or `MemWrite` at an address that is not below `2^ADDR_BITS` (R40, R41). Raised by the BIT_PHASE1 tick and by
  the store of `BUS_READ_BUFFER`. Safe. -/
  | addressOutsideSpace
  /-- Bit number above 7 of a byte asked for: `sh[i]` in `BUS_WRITE_BYTE` with i above 7, or `v[7 - bit_idx]` in the
  BIT_PHASE1 tick with `bit_idx` above 7 (R104, R139). Safe. -/
  | bitIndexOutsideByte
  /-- `fg_pc` names an index outside the micro-program of its operation (R13). Raised by every operation's meaning. Safe. -/
  | noSuchMicroStep
  deriving DecidableEq, Repr

/-- Why the machine gives no meaning to what is asked of it. -/
inductive Refusal where
  /-- An instruction whose meaning is not written. Raised by arms of `exec` only. Safe. -/
  | notModelled (mnemonic : String)
  /-- `exec i` in a state whose `fg_pc` is inside another operation: a second issue at a busy command port, which is
  "outside the command port of `30_encoding.md` rule R76; not modelled" (R196 row 1; 93_implementation_defined.md U15).
  Raised by every operation's meaning; `step` never asks for it. Safe. -/
  | operationInProgress
  deriving DecidableEq, Repr

/-- The state after power-on, before any operation (R22). The spec fixes `rf_state`, `timer_on` and `fg_pc`; every other
value is a launch value the spec leaves free. DESIGN CHOICE, log entry 1; unsafe if leaned on. -/
def State.reset : State where
  params := Params.default
  drvSCL := .Z
  drvSDA := .Z
  drvRF := .Z
  argByte := 0
  argPtr := 0
  argLen := 0
  sh := 0
  i := 0
  k := 0
  sample := .L
  resStatus := 0
  resAck := 0
  resByte := 0
  fgPc := .ready
  rfState := .IDLE
  txBuf := 0
  txLen := 0
  byteIdx := 0
  bitIdx := 0
  leadinCnt := 0
  timerOn := false
  gie := false
  mem := []
  hostQ := []
  envQ := []
  turns := []
  fairIn := none
  freeCtr := 0

end Sys2Proof.Machine
end

