-- ==== Sys2Proof/Machine/Flags.lean ====
section
/-! DEFINITION. Codes, flags and derived levels: the result codes of rule R70, the flags of rule R16, the line codes of rules R60, R64, R65 and the state codes of rule R73. -/

namespace Sys2Proof.Machine

/-- `OK` (R70). -/
def statusOk : BitVec 2 := 0

/-- `BUSY` (R70). -/
def statusBusy : BitVec 2 := 1

/-- `REFUSED` (R70). -/
def statusRefused : BitVec 2 := 2

/-- The acknowledgement result of a sampled level: 0 `ACKNOWLEDGED` for `L`, 1 `NOT_ACKNOWLEDGED` for `H` (R70, R104). -/
def ackCode (l : Level) : BitVec 1 :=
  match l with
  | .L => 0
  | .H => 1

/-- The data bit a sampled level stands for: 1 for `H`, 0 for `L` (R62, R91). -/
def bitOfLevel (l : Level) : Bool :=
  match l with
  | .L => false
  | .H => true

/-- The level a data bit shows on the bus (R62). -/
def levelOfBit (b : Bool) : Level := if b then .H else .L

/-- The complement of a level, "the only logic operation on a level" (R94). -/
def Level.complement (l : Level) : Level :=
  match l with
  | .L => .H
  | .H => .L

/-- The level of a bus line: `L` when the block or ENV drives it low, `H` otherwise (R60). -/
def wireLevel (d : Drive) (envPulls : Bool) : Level :=
  match d with
  | .D0 => .L
  | .Z => if envPulls then .L else .H
  | .PU => if envPulls then .L else .H

/-- What a `pin_read` returns: `L` on a line the block drives low, else ENV's answer (R85). -/
def readLevel (d : Drive) (answer : Level) : Level :=
  match d with
  | .D0 => .L
  | .Z => answer
  | .PU => answer

/-- The radio level of a drive state of RF_OUT (R16, R64). -/
def levelOfRf (d : RfDrive) : Level :=
  match d with
  | .D0 => .L
  | .Z => .H

/-- The drive state that shows a level on RF_OUT: high is a release (R64, R92). -/
def rfDriveOf (l : Level) : RfDrive :=
  match l with
  | .L => .D0
  | .H => .Z

/-- `rf_level`, derived from `drv_RF` (R16). -/
def State.rfLevel (s : State) : Level := levelOfRf s.drvRF

/-- The busy flag, the derived predicate `rf_state != IDLE` (R16, conflict C4). -/
def State.busy (s : State) : Bool := s.rfState != .IDLE

/-- The first half-symbol of a data bit: "inverted logic: bit=1 → low, bit=0 → high" (R65, R139). -/
def firstHalf (b : Bool) : Level := if b then .L else .H

/-- The two half-symbols of a data bit (R65). -/
def manchester (b : Bool) : List Level := [firstHalf b, (firstHalf b).complement]

/-- The numeric encoding of `rf_state` (R14, R73). -/
def RfState.code (r : RfState) : BitVec 3 :=
  match r with
  | .IDLE => 0
  | .START => 1
  | .LEAD_IN => 2
  | .BIT_PHASE1 => 3
  | .BIT_PHASE2 => 4
  | .END => 5

/-- The state a three-bit code stands for; 6 and 7 stand for none (R73). -/
def RfState.ofCode (c : BitVec 3) : Option RfState :=
  match c.toNat with
  | 0 => some .IDLE
  | 1 => some .START
  | 2 => some .LEAD_IN
  | 3 => some .BIT_PHASE1
  | 4 => some .BIT_PHASE2
  | 5 => some .END
  | _ => none

end Sys2Proof.Machine
end

