-- ==== Sys2Proof/Machine/Ops.lean ====
section
/-! DEFINITION. The shared operations: buffer memory (20_memory.md), the pin primitives (40_pin_primitives.md), the sequencer (R13), results (R70), and taking a tick and returning from it (R167, R168). -/

namespace Sys2Proof.Machine

/-- What a step answers. -/
abbrev Result := Host.Outcome State Fault Refusal

/-- Go on with the next state, or stop as the first part stopped. -/
def andThen (r : Result) (f : State → Result) : Result :=
  match r with
  | .next s => f s
  | .fault e => .fault e
  | .refused e => .refused e

/-- Change the next state of an answer, keep a stop. -/
def mapNext (r : Result) (f : State → State) : Result := andThen r (fun s => .next (f s))

/-- The next state of an answer, if it has one. -/
def nextOf (r : Result) : Option State :=
  match r with
  | .next s => some s
  | .fault _ => none
  | .refused _ => none

/-! ### Buffer memory (R40 to R45) -/

/-- What a byte of buffer memory reads as when the list does not name its address. The spec gives memory no reset contents
("the block holds no copy", R22) and no memory fault (R42), so a value is chosen. DESIGN CHOICE, log entry 7; unsafe. -/
def unlistedByte : Byte := 0

/-- The byte at an address. -/
def Memory.read (m : Memory) (a : Nat) : Byte :=
  match m with
  | [] => unlistedByte
  | c :: rest => if c.1 = a then c.2 else Memory.read rest a

/-- Put a byte in front of a memory whose addresses are all higher, listing it only if an unlisted byte reads otherwise. -/
def Memory.cons (a : Nat) (v : Byte) (m : Memory) : Memory := if v = unlistedByte then m else (a, v) :: m

/-- Store a byte, keeping the canonical form. -/
def Memory.write (m : Memory) (a : Nat) (v : Byte) : Memory :=
  match m with
  | [] => Memory.cons a v []
  | c :: rest =>
    if a < c.1 then Memory.cons a v (c :: rest)
    else if a = c.1 then Memory.cons a v rest
    else c :: Memory.write rest a v

/-- The canonical form, addresses at or above `lo`: strictly rising, no entry equal to the unlisted byte. -/
def Memory.wfFrom (lo : Nat) (m : Memory) : Bool :=
  match m with
  | [] => true
  | c :: rest => decide (lo ≤ c.1) && (c.2 != unlistedByte) && Memory.wfFrom (c.1 + 1) rest

/-- The canonical form of a memory. -/
def Memory.wf (m : Memory) : Bool := Memory.wfFrom 0 m

/-- Every listed address lies below a bound. -/
def Memory.below (n : Nat) (m : Memory) : Bool :=
  match m with
  | [] => true
  | c :: rest => decide (c.1 < n) && Memory.below n rest

/-- An address of buffer memory: below `2^ADDR_BITS` (R40). -/
def State.inSpace (s : State) (a : Nat) : Bool := decide (a < s.params.space)

/-- `MemRead(addr, 1)` (R42). None for an address that does not exist. -/
def State.memRead (s : State) (a : Nat) : Option Byte := if s.inSpace a then some (s.mem.read a) else none

/-- `MemWrite(addr, 1, v)` (R42). Faults for an address that does not exist. -/
def State.memWrite (s : State) (a : Nat) (v : Byte) : Result :=
  if s.inSpace a then .next { s with mem := s.mem.write a v } else .fault .addressOutsideSpace

/-- Bit `n` of a byte, 7 the most significant (R7); a byte has no bit above 7. -/
def bitOf (v : Byte) (n : Nat) : Option Bool := if n < 8 then some (v.getLsbD n) else none

/-! ### Pins (R82 to R85, R92) -/

/-- Set the drive state of a bus line. -/
def State.setDrive (s : State) (X : Line) (d : Drive) : State :=
  match X with
  | .SCL => { s with drvSCL := d }
  | .SDA => { s with drvSDA := d }

/-- The drive state of a bus line. -/
def State.drive (s : State) (X : Line) : Drive :=
  match X with
  | .SCL => s.drvSCL
  | .SDA => s.drvSDA

/-- `pin_release(X)` (R82). -/
def State.pinRelease (s : State) (X : Line) : State := s.setDrive X .Z

/-- `pin_pullup(X)` (R83). -/
def State.pinPullup (s : State) (X : Line) : State := s.setDrive X .PU

/-- `pin_low(X)` (R84). -/
def State.pinLow (s : State) (X : Line) : State := s.setDrive X .D0

/-- ENV's answer to a read of a released line, and the state with the answer used up. Where the list gives none the answer
is free: "the model must hold for either value" (R85). -/
def State.envAnswer (s : State) : Level × State :=
  match s.envQ with
  | l :: rest => (l, { s with envQ := rest })
  | [] => (levelOfBit (Config.freeBit s.freeCtr), { s with freeCtr := s.freeCtr + 1 })

/-- `pin_read(X)` (R85): a line the block drives low reads `L` and ENV is not asked. -/
def State.pinRead (s : State) (X : Line) : Level × State :=
  match s.drive X with
  | .D0 => (.L, s)
  | .Z => s.envAnswer
  | .PU => s.envAnswer

/-- The next `n` answers of ENV, first one first, and the state with them used up. -/
def State.envAnswers (s : State) (n : Nat) : List Level × State :=
  match n with
  | 0 => ([], s)
  | n + 1 => (s.envAnswer.1 :: (s.envAnswer.2.envAnswers n).1, (s.envAnswer.2.envAnswers n).2)

/-- `rf_set(v)` (R92). -/
def State.rfSet (s : State) (v : Level) : State := { s with drvRF := rfDriveOf v }

/-! ### Bytes and bits (R43, R94) -/

/-- `sh <- (sh << 1) | bit` on eight bits (R94, R105). -/
def shiftIn (v : Byte) (b : Bool) : Byte := (v <<< 1) ||| (BitVec.ofBool b).setWidth 8

/-- The bits of a byte, most significant first (R43). -/
def bitsMsbFirst (v : Byte) : List Bool :=
  [v.getLsbD 7, v.getLsbD 6, v.getLsbD 5, v.getLsbD 4, v.getLsbD 3, v.getLsbD 2, v.getLsbD 1, v.getLsbD 0]

/-- The byte that sampled levels accumulate to, first level first, from a start value (R105). -/
def accumulate (v : Byte) (ls : List Level) : Byte :=
  match ls with
  | [] => v
  | l :: rest => accumulate (shiftIn v (bitOfLevel l)) rest

/-- The byte of eight sampled levels, the first one in bit 7 (R43, R105). -/
def byteOfLevels (ls : List Level) : Byte := accumulate 0 ls

/-! ### The foreground sequencer and the results (R13, R70) -/

/-- `fg_pc <- (op, k)`. -/
def State.goto (s : State) (op : Op) (k : Nat) : State := { s with fgPc := .running op k }

/-- The end of an operation: the status is written and `fg_pc <- READY` (R13). -/
def State.complete (s : State) (status : BitVec 2) : State := { s with resStatus := status, fgPc := .ready }

/-- A refused word or operation: `RES_STATUS <- REFUSED`, `fg_pc` stays `READY`, nothing else (R71, R161). -/
def State.refuse (s : State) : State := { s with resStatus := statusRefused }

/-- The end of a byte's worth of work: "`sh`, `i`, `k` and `s` live only inside one operation. Their values between
operations are unspecified" (R12), so the elements the operation used become free values. Log entry 6. -/
def State.dropByteWork (s : State) : State :=
  { s with
    sh := Config.freeByte s.freeCtr
    i := Config.freeNibble s.freeCtr
    sample := levelOfBit (Config.freeBit s.freeCtr)
    freeCtr := s.freeCtr + 1 }

/-- As `dropByteWork`, for `read_buffer`, which used `k` too; a value of `LEN_BITS` bits. -/
def State.dropBufferWork (s : State) : State :=
  { s.dropByteWork with k := Config.freeNat s.freeCtr % 2 ^ s.params.lenBits }

/-- The start of a byte to be read: `sh <- 0` and eight bits to go (R105, R106). -/
def State.beginRead (s : State) : State := { s with sh := 0, i := 7 }

/-- The start of a byte to be written: `sh <- ARG_BYTE` and eight bits to go (R104). -/
def State.beginWrite (s : State) : State := { s with sh := s.argByte, i := 7 }

/-- `sh <- (sh << 1) | bit` for the bit just sampled (R91, R105). -/
def State.takeBit (s : State) : State := { s with sh := shiftIn s.sh (bitOfLevel s.sample) }

/-! ### The tick interrupt (R163, R167, R168) -/

/-- A TICK step is possible exactly when `timer_on = 1` and `GIE = 1` (R163). -/
def State.tickPossible (s : State) : Bool := s.timerOn && s.gie

/-- Entry to the tick handler: "Nothing is saved anywhere visible: there is no saved-pc element, no cause element, no stack";
no mode and no mask changes (R167). -/
def enterTick (s : State) : State := s

/-- Return from the tick handler: "nothing is restored because nothing was changed"; FG resumes at `fg_pc` (R168). -/
def leaveTick (s : State) : State := s

/-- One timer period: where a tick is possible the handler runs once, whole; where it is not, the period produces nothing
and is not made up later (R163, R164, R167, R168). -/
def takeTick (handler : State → Result) (s : State) : Result :=
  if s.tickPossible then mapNext (handler (enterTick s)) leaveTick else .next s

end Sys2Proof.Machine
end

