-- ==== Sys2Proof/Machine/Operands.lean ====
section
/-! DEFINITION. Where an operation's operands come from (the formats N, B, M of rule R68), and the checks made on them at issue (rules R41, R106, R133, R166). -/

namespace Sys2Proof.Machine

/-- The three formats of R68. -/
inductive Format where
  /-- No operand. -/
  | N
  /-- `ARG_BYTE <- data`. -/
  | B
  /-- `ARG_PTR` and `ARG_LEN`, written by the host before issue. -/
  | M
  deriving DecidableEq, Repr

/-- The format of an operation (R68, R69). -/
def formatOf (i : Instr) : Format :=
  match i with
  | .busInit => .N
  | .busStart => .N
  | .busStop => .N
  | .busWriteByte _ => .B
  | .busReadByte => .N
  | .busReadBuffer => .M
  | .rfInit => .N
  | .rfTransmitBuffer => .M
  | .rfTransmitPacket => .M

/-- The name of an operation. -/
def opOf (i : Instr) : Op :=
  match i with
  | .busInit => .busInit
  | .busStart => .busStart
  | .busStop => .busStop
  | .busWriteByte _ => .busWriteByte
  | .busReadByte => .busReadByte
  | .busReadBuffer => .busReadBuffer
  | .rfInit => .rfInit
  | .rfTransmitBuffer => .rfTransmitBuffer
  | .rfTransmitPacket => .rfTransmitPacket

/-- The operation in progress as an instruction, its byte operand taken from `ARG_BYTE`. -/
def instrOf (op : Op) (b : Byte) : Instr :=
  match op with
  | .busInit => .busInit
  | .busStart => .busStart
  | .busStop => .busStop
  | .busWriteByte => .busWriteByte b
  | .busReadByte => .busReadByte
  | .busReadBuffer => .busReadBuffer
  | .rfInit => .rfInit
  | .rfTransmitBuffer => .rfTransmitBuffer
  | .rfTransmitPacket => .rfTransmitPacket

/-- The buffer the operand registers name passes no address above the top: `ptr + len <= 2^ADDR_BITS`, computed without
wrap-around (R41). -/
def State.bufferFits (s : State) : Bool := s.params.bufferFits s.argPtr s.argLen

/-- Issue of an operation without a check: `fg_pc <- (op, 0)` (R13, R76). -/
def State.accept (s : State) (op : Op) : State := s.goto op 0

/-- Issue of `BUS_WRITE_BYTE`: format B puts the `data` field in `ARG_BYTE` (R68). -/
def State.acceptByte (s : State) (b : Byte) : State := { s.accept .busWriteByte with argByte := b }

/-- Issue of `BUS_READ_BUFFER`: an empty buffer completes with `OK` and no micro-step, a buffer past the top is refused
(R41, R106; the order of the checks is R166's). -/
def State.acceptReadBuffer (s : State) : State :=
  if s.argLen = 0 then s.complete statusOk
  else if s.bufferFits then s.accept .busReadBuffer
  else s.refuse

/-- Issue of `RF_TRANSMIT_BUFFER`: an empty buffer or one past the top is refused (R41, R133). -/
def State.acceptTransmit (s : State) : State :=
  if s.argLen = 0 then s.refuse
  else if s.bufferFits then s.accept .rfTransmitBuffer
  else s.refuse

/-- A value the host writes to a register of `n` bits: only the bits that fit (R7). DESIGN CHOICE, log entry 3. -/
def fitTo (n v : Nat) : Nat := v % 2 ^ n

end Sys2Proof.Machine
end

