-- ==== Sys2Proof/Machine/Micro.lean ====
section
/-! DEFINITION. The micro-steps of the foreground: the actions of rule R7, the routines of rules R87 to R91 as lists of actions, the event each action shows (rule R93), and one foreground step of an operation (rule R13). -/

namespace Sys2Proof.Machine

/-- The three durations a `delay` names (R86). -/
inductive Delay where
  | tLow
  | tHigh
  | tHalf
  deriving DecidableEq, Repr

/-- Where the bit of a `bus_write_bit` comes from (R90). -/
inductive BitSource where
  /-- 1: SDA is released. -/
  | one
  /-- `sh[i]`, the data bit of `BUS_WRITE_BYTE` (R104). -/
  | shiftBit
  /-- 0 while bytes remain and 1 after the final byte: the ninth bit of `BUS_READ_BUFFER` (R106). -/
  | ackBit
  deriving DecidableEq, Repr

/-- One indivisible action of the foreground: "one pin write, one pin read, one delay, one buffer access, or one read or
write of the radio state" (R7). -/
inductive Action where
  | release (X : Line)
  | pullup (X : Line)
  | low (X : Line)
  | delay (d : Delay)
  /-- `s <- pin_read(SDA)`. -/
  | sampleSda
  /-- `if b = 1 then pin_release(SDA) else pin_low(SDA)`. -/
  | sda (b : BitSource)
  /-- `MemWrite(ARG_PTR + k, 1, sh)`. -/
  | storeByte
  | rfSet (v : Level)
  /-- `rf_state <- v`. -/
  | rfWrite (v : RfState)
  /-- The read of `rf_state` at m0 and m4. -/
  | rfTest
  /-- `tx_buf <- ARG_PTR`. -/
  | writeTxBuf
  /-- `tx_len <- ARG_LEN`. -/
  | writeTxLen
  /-- `timer_on <- 1`. -/
  | timerStart
  deriving DecidableEq, Repr

/-- The bit a `bus_write_bit` sends; none where `i` names no bit of `sh`. -/
def sourceBit (b : BitSource) (s : State) : Option Bool :=
  match b with
  | .one => some true
  | .shiftBit => bitOf s.sh s.i.toNat
  | .ackBit => some (!decide (s.k + 1 < s.argLen))

/-- The address `BUS_READ_BUFFER` stores byte `k` at (R41, R106). -/
def storeAddress (s : State) : Nat := s.argPtr + s.k

/-- SDA set for one bit: a 1 is sent by releasing (R90). -/
def State.putBit (s : State) (b : Bool) : State := if b then s.pinRelease .SDA else s.pinLow .SDA

/-- The effect of one action (R82 to R86, R90, R92, R42, R133). -/
def Action.run (a : Action) (s : State) : Result :=
  match a with
  | .release X => .next (s.pinRelease X)
  | .pullup X => .next (s.pinPullup X)
  | .low X => .next (s.pinLow X)
  | .delay _ => .next s
  | .sampleSda => .next { (s.pinRead .SDA).2 with sample := (s.pinRead .SDA).1 }
  | .sda b =>
    match sourceBit b s with
    | some v => .next (s.putBit v)
    | none => .fault .bitIndexOutsideByte
  | .storeByte => s.memWrite (storeAddress s) s.sh
  | .rfSet v => .next (s.rfSet v)
  | .rfWrite v => .next { s with rfState := v }
  | .rfTest => .next s
  | .writeTxBuf => .next { s with txBuf := s.argPtr }
  | .writeTxLen => .next { s with txLen := s.argLen }
  | .timerStart => .next { s with timerOn := true }

/-! ### Routines (R87 to R91) -/

/-- `bus_release_via_pullup(X)` (R87). -/
def releaseViaPullup (X : Line) : List Action := [.pullup X, .release X]

/-- `bus_clock_pulse()` (R88). -/
def clockPulse : List Action := [.delay .tLow, .release .SCL, .delay .tHigh, .low .SCL]

/-- `bus_clock_pulse_sample()` (R89). -/
def clockPulseSample : List Action :=
  [.delay .tLow, .release .SCL, .delay .tHalf, .sampleSda, .delay .tHalf, .low .SCL]

/-- `bus_write_bit(b)` (R90). -/
def busWriteBit (b : BitSource) : List Action := .sda b :: clockPulse

/-- `bus_read_bit()` (R91). -/
def busReadBit : List Action := clockPulseSample

/-! ### One foreground step -/

/-- One foreground step of an operation (R13, R76): at `READY` the operation is issued; inside the operation the micro-step
at the index is performed and `after` says what follows it: the loop and result writes of the pseudocode and where
`fg_pc` goes. -/
def foreground (op : Op) (program : List Action) (issue : State → State) (after : Nat → State → State) (s : State) :
    Result :=
  match s.fgPc with
  | .ready => .next (issue s)
  | .running op' k =>
    if op' = op then
      match program[k]? with
      | some a => mapNext (a.run s) (after k)
      | none => .fault .noSuchMicroStep
    else .refused .operationInProgress

/-- What follows a micro-step of a straight-line operation: the next one, or after the last completion with `OK`. -/
def straight (op : Op) (program : List Action) (k : Nat) (s : State) : State :=
  if k + 1 < program.length then s.goto op (k + 1) else s.complete statusOk

/-! ### Events (R93) -/

/-- What an outside observer sees (R93). `rf` is `rf_level` after a tick. -/
inductive Event where
  | c0
  | c1
  | cP
  | d0
  | d1
  | dP
  | tL
  | tH
  | th
  | s (level : Level)
  | w (addr : Nat) (value : Byte)
  | rf (level : Level)
  deriving DecidableEq, Repr

/-- The token of a pin write of drive state `d` (R93). -/
def driveEvent (X : Line) (d : Drive) : Event :=
  match X, d with
  | .SCL, .D0 => .c0
  | .SCL, .Z => .c1
  | .SCL, .PU => .cP
  | .SDA, .D0 => .d0
  | .SDA, .Z => .d1
  | .SDA, .PU => .dP

/-- The token of a delay (R93). -/
def delayEvent (d : Delay) : Event :=
  match d with
  | .tLow => .tL
  | .tHigh => .tH
  | .tHalf => .th

/-- The event an action shows in a state; the radio's writes show no event of their own, the level after each tick does. -/
def Action.event (a : Action) (s : State) : List Event :=
  match a with
  | .release X => [driveEvent X .Z]
  | .pullup X => [driveEvent X .PU]
  | .low X => [driveEvent X .D0]
  | .delay d => [delayEvent d]
  | .sampleSda => [.s (s.pinRead .SDA).1]
  | .sda b =>
    match sourceBit b s with
    | some v => [if v then .d1 else .d0]
    | none => []
  | .storeByte => if s.inSpace (storeAddress s) then [.w (storeAddress s) s.sh] else []
  | .rfSet _ => []
  | .rfWrite _ => []
  | .rfTest => []
  | .writeTxBuf => []
  | .writeTxLen => []
  | .timerStart => []

/-- How long a delay lasts at least, in nanoseconds (R6, R86). -/
def Delay.duration (p : Params) (d : Delay) : Nat :=
  match d with
  | .tLow => p.tLow
  | .tHigh => p.tHigh
  | .tHalf => p.tHalf

end Sys2Proof.Machine
end

