-- ==== Sys2Proof/Machine/Bus.lean ====
section
/-! DEFINITION. The six operations of the bus master (41_bus_master.md, rules R101 to R106). -/

namespace Sys2Proof.Machine

/-! ### BUS_INIT (R101) -/

/-- The micro-program of `BUS_INIT`: two micro-steps. -/
def busInitProgram : List Action := [.release .SCL, .release .SDA]

/-- `BUS_INIT`: release both lines (R101). -/
def execBusInit (s : State) : Result :=
  foreground .busInit busInitProgram (fun s => s.accept .busInit) (straight .busInit busInitProgram) s

/-! ### BUS_START (R102) -/

/-- The micro-program of `BUS_START`: nine micro-steps. -/
def busStartProgram : List Action :=
  releaseViaPullup .SDA ++ [.delay .tLow] ++ releaseViaPullup .SCL ++
    [.delay .tLow, .low .SDA, .delay .tLow, .low .SCL]

/-- `BUS_START`: assert a START condition (R102). -/
def execBusStart (s : State) : Result :=
  foreground .busStart busStartProgram (fun s => s.accept .busStart) (straight .busStart busStartProgram) s

/-! ### BUS_STOP (R103) -/

/-- The micro-program of `BUS_STOP`: six micro-steps. -/
def busStopProgram : List Action :=
  [.low .SDA, .delay .tLow, .release .SCL, .delay .tLow, .release .SDA, .delay .tLow]

/-- `BUS_STOP`: assert a STOP condition (R103). -/
def execBusStop (s : State) : Result :=
  foreground .busStop busStopProgram (fun s => s.accept .busStop) (straight .busStop busStopProgram) s

/-! ### BUS_WRITE_BYTE (R104) -/

/-- The micro-program of `BUS_WRITE_BYTE`: index 0, the body of the bit loop at 1 to 5, the ninth pulse at 6 to 12. -/
def busWriteByteProgram : List Action :=
  [.low .SCL] ++ busWriteBit .shiftBit ++ [.release .SDA] ++ clockPulseSample

/-- What follows a micro-step of `BUS_WRITE_BYTE`: `sh <- ARG_BYTE` with the first, the loop `for i = 7 down to 0` with the
last of each bit, the results with the last of all (R104; where the pseudocode's register writes fall, log entry 8). -/
def busWriteByteAfter (k : Nat) (s : State) : State :=
  match k with
  | 0 => s.beginWrite.goto .busWriteByte 1
  | 5 => if s.i = 0 then s.goto .busWriteByte 6 else { s with i := s.i - 1 }.goto .busWriteByte 1
  | 12 => ({ s with resAck := ackCode s.sample }.dropByteWork).complete statusOk
  | k => s.goto .busWriteByte (k + 1)

/-- `BUS_WRITE_BYTE b`: eight bits most significant first, then the acknowledgement sampled (R104). -/
def execBusWriteByte (b : Byte) (s : State) : Result :=
  foreground .busWriteByte busWriteByteProgram (fun s => s.acceptByte b) busWriteByteAfter s

/-! ### BUS_READ_BYTE (R105) -/

/-- The micro-program of `BUS_READ_BYTE`: indexes 0 and 1, the body of the bit loop at 2 to 7, the ninth pulse at 8 to 12. -/
def busReadByteProgram : List Action := [.low .SCL, .release .SDA] ++ busReadBit ++ busWriteBit .one

/-- What follows a micro-step of `BUS_READ_BYTE` (R105; log entry 8). -/
def busReadByteAfter (k : Nat) (s : State) : State :=
  match k with
  | 1 => s.beginRead.goto .busReadByte 2
  | 7 => if s.i = 0 then s.takeBit.goto .busReadByte 8 else { s.takeBit with i := s.i - 1 }.goto .busReadByte 2
  | 12 => ({ s with resByte := s.sh }.dropByteWork).complete statusOk
  | k => s.goto .busReadByte (k + 1)

/-- `BUS_READ_BYTE`: eight samples most significant first, then NOT-ACKNOWLEDGED (R105). -/
def execBusReadByte (s : State) : Result :=
  foreground .busReadByte busReadByteProgram (fun s => s.accept .busReadByte) busReadByteAfter s

/-! ### BUS_READ_BUFFER (R106) -/

/-- The micro-program of `BUS_READ_BUFFER`: indexes 0 and 1, the body of the byte loop at 2 to 14 with the bit loop at 2
to 7, the store at 8, the ninth pulse at 9 to 13 and the release after an acknowledgement at 14. -/
def busReadBufferProgram : List Action :=
  [.low .SCL, .release .SDA] ++ busReadBit ++ [.storeByte] ++ busWriteBit .ackBit ++ [.release .SDA]

/-- What follows a micro-step of `BUS_READ_BUFFER`: the bit loop, the byte loop, and completion after the ninth pulse of the
final byte (R106; log entry 8). -/
def busReadBufferAfter (k : Nat) (s : State) : State :=
  match k with
  | 1 => { s.beginRead with k := 0 }.goto .busReadBuffer 2
  | 7 => if s.i = 0 then s.takeBit.goto .busReadBuffer 8 else { s.takeBit with i := s.i - 1 }.goto .busReadBuffer 2
  | 13 => if s.k + 1 < s.argLen then s.goto .busReadBuffer 14 else s.dropBufferWork.complete statusOk
  | 14 => { s.beginRead with k := s.k + 1 }.goto .busReadBuffer 2
  | k => s.goto .busReadBuffer (k + 1)

/-- `BUS_READ_BUFFER ptr, len`: `len` bytes read and stored in ascending order, every one acknowledged but the last (R106). -/
def execBusReadBuffer (s : State) : Result :=
  foreground .busReadBuffer busReadBufferProgram State.acceptReadBuffer busReadBufferAfter s

end Sys2Proof.Machine
end

