-- ==== Sys2Proof/Machine/Radio.lean ====
section
/-! DEFINITION. The radio transmitter (42_radio_transmitter.md): its three operations (rules R131, R133, R134) and the six rules of the tick handler (rules R135 to R141). -/

namespace Sys2Proof.Machine

/-! ### RF_INIT (R131) -/

/-- The micro-program of `RF_INIT`: three micro-steps, `timer_on` last. -/
def rfInitProgram : List Action := [.rfSet .L, .rfWrite .IDLE, .timerStart]

/-- `RF_INIT`: the line low, the state machine idle, the timer on (R131). -/
def execRfInit (s : State) : Result :=
  foreground .rfInit rfInitProgram (fun s => s.accept .rfInit) (straight .rfInit rfInitProgram) s

/-! ### RF_TRANSMIT_BUFFER (R133) -/

/-- The micro-steps m0 to m4 of `RF_TRANSMIT_BUFFER`. -/
def rfTransmitBufferProgram : List Action := [.rfTest, .writeTxBuf, .writeTxLen, .rfWrite .START, .rfTest]

/-- What follows a micro-step of `RF_TRANSMIT_BUFFER`: at m0 `BUSY` unless idle; m4 holds `fg_pc` in place until idle
(R13, R133). -/
def rfTransmitBufferAfter (k : Nat) (s : State) : State :=
  match k with
  | 0 => if s.busy then s.complete statusBusy else s.goto .rfTransmitBuffer 1
  | 4 => if s.busy then s else s.complete statusOk
  | k => s.goto .rfTransmitBuffer (k + 1)

/-- `RF_TRANSMIT_BUFFER ptr, len`: hand the buffer to the tick handler and wait until it is done (R133). -/
def execRfTransmitBuffer (s : State) : Result :=
  foreground .rfTransmitBuffer rfTransmitBufferProgram State.acceptTransmit rfTransmitBufferAfter s

/-! ### RF_TRANSMIT_PACKET (R134) -/

/-- `RF_TRANSMIT_PACKET ptr, len`: always refused, with no micro-step; `ARG_PTR` and `ARG_LEN` are ignored (R134). -/
def execRfTransmitPacket (s : State) : Result :=
  foreground .rfTransmitPacket [] State.refuse (fun _ s => s) s

/-! ### The tick handler (R135 to R141) -/

/-- Tick in `IDLE`: nothing (R136). -/
def tickIdle (s : State) : Result := .next s

/-- Tick in `START` (R137). -/
def tickStart (s : State) : Result :=
  .next { s.rfSet .H with byteIdx := 0, bitIdx := 0, leadinCnt := 0, rfState := .LEAD_IN }

/-- Tick in `LEAD_IN` (R138). -/
def tickLeadIn (s : State) : Result :=
  .next { s.rfSet .H with
    leadinCnt := s.leadinCnt + 1
    rfState := if s.leadinCnt + 1 = s.params.leadInTicks then .BIT_PHASE1 else .LEAD_IN }

/-- The address the BIT_PHASE1 tick loads from (R139). -/
def loadAddress (s : State) : Nat := s.txBuf + s.byteIdx

/-- The current data bit of a loaded byte: bit `7 - bit_idx`; none for a `bit_idx` above 7 (R139). -/
def currentBit (v : Byte) (bitIdx : Nat) : Option Bool := if bitIdx < 8 then bitOf v (7 - bitIdx) else none

/-- Tick in `BIT_PHASE1` (R139). -/
def tickBitPhase1 (s : State) : Result :=
  match s.memRead (loadAddress s) with
  | none => .fault .addressOutsideSpace
  | some v =>
    match currentBit v s.bitIdx with
    | none => .fault .bitIndexOutsideByte
    | some b => .next { s.rfSet (firstHalf b) with rfState := .BIT_PHASE2 }

/-- Tick in `BIT_PHASE2` (R140). -/
def tickBitPhase2 (s : State) : Result :=
  let byteDone := s.bitIdx + 1 = 8
  let byteIdx := if byteDone then s.byteIdx + 1 else s.byteIdx
  .next { s.rfSet s.rfLevel.complement with
    bitIdx := if byteDone then 0 else s.bitIdx + 1
    byteIdx := byteIdx
    rfState := if byteIdx = s.txLen then .END else .BIT_PHASE1 }

/-- Tick in `END` (R141). -/
def tickEnd (s : State) : Result := .next { s.rfSet .L with rfState := .IDLE }

/-- The tick handler: the one rule that matches `rf_state` (R135). -/
def tickHandler (s : State) : Result :=
  match s.rfState with
  | .IDLE => tickIdle s
  | .START => tickStart s
  | .LEAD_IN => tickLeadIn s
  | .BIT_PHASE1 => tickBitPhase1 s
  | .BIT_PHASE2 => tickBitPhase2 s
  | .END => tickEnd s

end Sys2Proof.Machine
end

