-- ==== Sys2Proof/Machine/Dispatch.lean ====
section
/-! DEFINITION. One foreground step of an operation: each instruction's meaning called by name. -/

namespace Sys2Proof.Machine

/-- One foreground step of operation `i` (R13): its issue at `READY`, else the micro-step `fg_pc` names. -/
def exec (i : Instr) (s : State) : Host.Outcome State Fault Refusal :=
  match i with
  | .busInit => Sys2Proof.Machine.execBusInit s
  | .busStart => Sys2Proof.Machine.execBusStart s
  | .busStop => Sys2Proof.Machine.execBusStop s
  | .busWriteByte data => Sys2Proof.Machine.execBusWriteByte data s
  | .busReadByte => Sys2Proof.Machine.execBusReadByte s
  | .busReadBuffer => Sys2Proof.Machine.execBusReadBuffer s
  | .rfInit => Sys2Proof.Machine.execRfInit s
  | .rfTransmitBuffer => Sys2Proof.Machine.execRfTransmitBuffer s
  | .rfTransmitPacket => Sys2Proof.Machine.execRfTransmitPacket s

end Sys2Proof.Machine
end

