-- ==== Sys2Proof/Machine/Agents.lean ====
section
/-! DEFINITION. The agents' steps (rule R10) and the choice of who moves (rules R48, R163 to R166). -/

namespace Sys2Proof.Machine

/-! ### HOST -/

/-- The block takes a command word at `READY`: an illegal word is refused, a legal one is issued (R71, R76). -/
def issueWord (w : CommandWord) (s : State) : Result :=
  match decode w with
  | .ok i => exec i s
  | .error _ => .next s.refuse

/-- A host act that waits for `fg_pc = READY` (R76): issue, and the writes of the operand registers before it. -/
def HostAct.waits (a : HostAct) : Bool :=
  match a with
  | .issue _ => true
  | .writePtr _ => true
  | .writeLen _ => true
  | .setGie _ => false
  | .store _ _ => false

/-- The host can move: it has something to do and need not wait. -/
def State.hostCanMove (s : State) : Bool :=
  match s.hostQ with
  | [] => false
  | a :: _ => !a.waits || s.fgPc == .ready

/-- One act of the host. -/
def HostAct.run (a : HostAct) (s : State) : Result :=
  match a with
  | .issue w => issueWord w s
  | .writePtr p => .next { s with argPtr := fitTo s.params.addrBits p }
  | .writeLen n => .next { s with argLen := fitTo s.params.lenBits n }
  | .setGie b => .next { s with gie := b }
  | .store a v => .next { s with mem := s.mem.write (fitTo s.params.addrBits a) v }

/-- A HOST step: the next act of the host, or nothing where it has none or must wait (R10, R76). -/
def hostStep (s : State) : Result :=
  match s.hostQ with
  | [] => .next s
  | a :: rest => if s.hostCanMove then a.run { s with hostQ := rest } else .next s

/-! ### FG -/

/-- The foreground can move: an operation is in progress (R13). -/
def State.fgCanMove (s : State) : Bool := s.fgPc != .ready

/-- An FG step: one micro-step of the operation in progress; nothing at `READY` (R10, R13). -/
def fgStep (s : State) : Result :=
  match s.fgPc with
  | .ready => .next s
  | .running op _ => exec (instrOf op s.argByte) s

/-! ### TICK -/

/-- A TICK step where one is possible, a timer period that produces nothing where it is not (R163, R164). -/
def tickStep (s : State) : Result := takeTick tickHandler s

/-! ### Who moves -/

/-- The agents that can move in a state. -/
def State.movers (s : State) : List Agent :=
  (if s.hostCanMove then [Agent.host] else []) ++ (if s.fgCanMove then [Agent.fg] else []) ++
    (if s.tickPossible then [Agent.tick] else [])

/-- The agent a free choice names. -/
def agentOf (n : Fin 3) : Agent :=
  match n.val with
  | 0 => .host
  | 1 => .fg
  | _ => .tick

/-- How many free choices pass before the next fair round: what is left of the number drawn, or a number drawn now. -/
def State.fairBound (s : State) : Nat := s.fairIn.getD (Config.freeNat s.freeCtr)

/-- A fair round: a timer period, then the turn of the foreground, after which a new number is drawn. -/
def State.fairRound (s : State) : Option Agent × State :=
  (some .tick, { s with turns := [.fg], fairIn := none, freeCtr := s.freeCtr + 1 })

/-- A choice of who moves that nothing constrains. -/
def State.freeChoice (s : State) : Option Agent × State :=
  (some (agentOf (Config.freeTurn s.freeCtr)), { s with fairIn := some (s.fairBound - 1), freeCtr := s.freeCtr + 1 })

/-- Who moves where several agents can: a free choice, but after a free number of them a fair round. "A TICK step
eventually occurs, and any number of FG micro-steps, zero included, may lie between two TICK steps" (R165). -/
def State.fairChoice (s : State) : Option Agent × State := if s.fairBound = 0 then s.fairRound else s.freeChoice

/-- Who moves in this step, and the state with that choice made (R48: one total order of the agents' steps). The list of
turns says; where it is used up and one agent can move, that one; where several can, a fair choice (R165); where none can,
nobody. Log entry 4. -/
def State.choose (s : State) : Option Agent × State :=
  match s.turns with
  | a :: rest => (some a, { s with turns := rest })
  | [] =>
    match s.movers with
    | [] => (none, s)
    | [a] => (some a, s)
    | _ => s.fairChoice

/-- The step of one agent. -/
def agentStep (a : Agent) (s : State) : Result :=
  match a with
  | .host => hostStep s
  | .fg => fgStep s
  | .tick => tickStep s

/-- The step of whoever moves; nothing happens where nobody does. -/
def moveStep (a : Option Agent) (s : State) : Result :=
  match a with
  | none => .next s
  | some a => agentStep a s

/-- The word the low `nbits` bits of `w` lay out at the command port. -/
def portWord (nbits w : Nat) : CommandWord := BitVec.ofNat 16 (w % 2 ^ nbits)

end Sys2Proof.Machine
end

