-- ==== Sys2Proof/Machine/Step.lean ====
section
/-! DEFINITION. One step of the machine: one step of one agent (rules R10, R48). -/

namespace Sys2Proof.Machine

/-- One step: HOST issues or acts, FG runs one micro-step, or TICK runs its handler once (R10, R13, R48). -/
def step (s : State) : Host.Outcome State Fault Refusal := moveStep s.choose.1 s.choose.2

/-- The state whose next step is the host's issue of the word in the low `nbits` bits of `w`: the foreground is READY (R76),
the word is the host's next act, and the host has the next turn. Log entry 3. -/
def State.withFetchWord (s : State) (nbits w : Nat) : State :=
  { s with fgPc := .ready, hostQ := .issue (portWord nbits w) :: s.hostQ, turns := .host :: s.turns }

end Sys2Proof.Machine
end

