-- ==== Sys2Proof/Machine/Observe.lean ====
section
/-! DEFINITION. What an observer sees of a run: the event trace (rule R93), the wires and the conditions on them (rules R60, R61), the radio waveform (rule R142), durations (rule R209). Nothing here is state, and no step reads it. -/

namespace Sys2Proof.Machine

/-! ### Runs -/

/-- A step function run `n` times. -/
def iterate (f : State → Result) (n : Nat) (s : State) : Result :=
  match n with
  | 0 => .next s
  | n + 1 => andThen (f s) (iterate f n)

/-- What is observed before each of `n` steps of a run, in order; the run ends early where a step stops. -/
def observe {α : Type} (f : State → Result) (look : State → List α) (n : Nat) (s : State) : List α :=
  match n with
  | 0 => []
  | n + 1 =>
    look s ++
      match f s with
      | .next t => observe f look n t
      | .fault _ => []
      | .refused _ => []

/-- `n` foreground steps of operation `i`, its issue first. -/
def execFor (i : Instr) (n : Nat) (s : State) : Result := iterate (exec i) n s

/-- `n` runs of the tick handler. -/
def ticksFor (n : Nat) (s : State) : Result := iterate tickHandler n s

/-- `n` steps of the machine. -/
def stepsFor (n : Nat) (s : State) : Result := iterate step n s

/-! ### The event trace (R93) -/

/-- The micro-program of an operation. -/
def programOf (op : Op) : List Action :=
  match op with
  | .busInit => busInitProgram
  | .busStart => busStartProgram
  | .busStop => busStopProgram
  | .busWriteByte => busWriteByteProgram
  | .busReadByte => busReadByteProgram
  | .busReadBuffer => busReadBufferProgram
  | .rfInit => rfInitProgram
  | .rfTransmitBuffer => rfTransmitBufferProgram
  | .rfTransmitPacket => []

/-- What the issue of an operation makes of a state (R76). -/
def issued (i : Instr) (s : State) : State :=
  match i with
  | .busInit => s.accept .busInit
  | .busStart => s.accept .busStart
  | .busStop => s.accept .busStop
  | .busWriteByte b => s.acceptByte b
  | .busReadByte => s.accept .busReadByte
  | .busReadBuffer => s.acceptReadBuffer
  | .rfInit => s.accept .rfInit
  | .rfTransmitBuffer => s.acceptTransmit
  | .rfTransmitPacket => s.refuse

/-- What follows micro-step `k` of an operation. -/
def following (op : Op) (k : Nat) (s : State) : State :=
  match op with
  | .busInit => straight .busInit busInitProgram k s
  | .busStart => straight .busStart busStartProgram k s
  | .busStop => straight .busStop busStopProgram k s
  | .busWriteByte => busWriteByteAfter k s
  | .busReadByte => busReadByteAfter k s
  | .busReadBuffer => busReadBufferAfter k s
  | .rfInit => straight .rfInit rfInitProgram k s
  | .rfTransmitBuffer => rfTransmitBufferAfter k s
  | .rfTransmitPacket => s

/-- The events of the next micro-step of the foreground; an issue shows none. -/
def fgEvents (s : State) : List Event :=
  match s.fgPc with
  | .ready => []
  | .running op k =>
    match (programOf op)[k]? with
    | some a => a.event s
    | none => []

/-- The event of a timer period: `rf_level` after the tick, where a tick is possible. -/
def tickEvents (s : State) : List Event :=
  if s.tickPossible then
    match tickHandler s with
    | .next t => [.rf t.rfLevel]
    | .fault _ => []
    | .refused _ => []
  else []

/-- The events of the next step of the machine. -/
def stepEvents (s : State) : List Event :=
  match s.choose.1 with
  | none => []
  | some .host => []
  | some .fg => fgEvents s.choose.2
  | some .tick => tickEvents s.choose.2

/-- The trace of `n` foreground steps of operation `i`. -/
def opTrace (i : Instr) (n : Nat) (s : State) : List Event := observe (exec i) fgEvents n s

/-- The trace of `n` steps of the machine. -/
def trace (n : Nat) (s : State) : List Event := observe step stepEvents n s

/-- The waveform of `n` ticks: `rf_level` after each. -/
def waveform (n : Nat) (s : State) : List Level :=
  match n with
  | 0 => []
  | n + 1 =>
    match tickHandler s with
    | .next t => t.rfLevel :: waveform n t
    | .fault _ => []
    | .refused _ => []

/-- A bus event, as against the level of RF_OUT after a tick. -/
def Event.onBus (e : Event) : Bool :=
  match e with
  | .rf _ => false
  | .c0 => true
  | .c1 => true
  | .cP => true
  | .d0 => true
  | .d1 => true
  | .dP => true
  | .tL => true
  | .tH => true
  | .th => true
  | .s _ => true
  | .w _ _ => true

/-! ### Lengths of operations (R107, R209) -/

/-- The number of micro-steps a bus operation, `RF_INIT` or a refused operation takes from issue to `READY`, its issue not
counted (R101 to R106, R131, R134). `RF_TRANSMIT_BUFFER` has no fixed number: it waits. -/
def microSteps (i : Instr) (len : Nat) : Option Nat :=
  match i with
  | .busInit => some 2
  | .busStart => some 9
  | .busStop => some 6
  | .busWriteByte _ => some 48
  | .busReadByte => some 55
  | .busReadBuffer => if len = 0 then some 0 else some (55 * len + 1)
  | .rfInit => some 3
  | .rfTransmitBuffer => none
  | .rfTransmitPacket => some 0

/-- The ticks of one transmission from arming to `IDLE`: `N + 16 * len + 2` (R142). -/
def transmissionTicks (p : Params) (len : Nat) : Nat := p.leadInTicks + 16 * len + 2

/-- The shortest time an event takes: a delay its duration, everything else nothing (R209). -/
def Event.duration (p : Params) (e : Event) : Nat :=
  match e with
  | .tL => Delay.duration p .tLow
  | .tH => Delay.duration p .tHigh
  | .th => Delay.duration p .tHalf
  | .c0 => 0
  | .c1 => 0
  | .cP => 0
  | .d0 => 0
  | .d1 => 0
  | .dP => 0
  | .s _ => 0
  | .w _ _ => 0
  | .rf _ => 0

/-- The shortest time a trace takes (R209). -/
def minDuration (p : Params) (es : List Event) : Nat := (es.map (Event.duration p)).sum

/-! ### The wires (R60, R61) -/

/-- The levels of the two bus wires. -/
structure Wires where
  scl : Level
  sda : Level
  deriving DecidableEq, Repr

/-- The wires where ENV pulls the lines it is said to pull (R60). -/
def wiresWith (pullSCL pullSDA : Bool) (s : State) : Wires :=
  { scl := wireLevel s.drvSCL pullSCL, sda := wireLevel s.drvSDA pullSDA }

/-- The wires where no responder pulls. -/
def wires (s : State) : Wires := wiresWith false false s

/-- The bus conditions of R61. -/
inductive Condition where
  | start
  | stop
  deriving DecidableEq, Repr

/-- The condition a change of the wires is: SDA falling or rising while SCL is high before and after (R61). -/
def conditionAt (a b : Wires) : List Condition :=
  match a.scl, b.scl, a.sda, b.sda with
  | .H, .H, .H, .L => [.start]
  | .H, .H, .L, .H => [.stop]
  | _, _, _, _ => []

/-- The conditions along a sequence of wire levels. -/
def conditions (ws : List Wires) : List Condition :=
  match ws with
  | [] => []
  | [_] => []
  | a :: b :: rest => conditionAt a b ++ conditions (b :: rest)

/-- The wires before each of `n` foreground steps of operation `i` and after the last. -/
def wireTrace (i : Instr) (n : Nat) (s : State) : List Wires :=
  observe (exec i) (fun t => [wires t]) n s ++
    match execFor i n s with
    | .next t => [wires t]
    | .fault _ => []
    | .refused _ => []

/-- The level the block shows on SDA at each clock high, where no responder pulls: the level set last before each release
of SCL (R62, R110). -/
def clockHighs (sda : Level) (es : List Event) : List Level :=
  match es with
  | [] => []
  | .c1 :: rest => sda :: clockHighs sda rest
  | .d0 :: rest => clockHighs .L rest
  | .d1 :: rest => clockHighs .H rest
  | .dP :: rest => clockHighs .H rest
  | _ :: rest => clockHighs sda rest

/-! ### Bytes in memory -/

/-- The `n` bytes of memory at `a`, ascending (R41, R43). -/
def bytesAt (m : Memory) (a n : Nat) : List Byte :=
  match n with
  | 0 => []
  | n + 1 => m.read a :: bytesAt m (a + 1) n

/-- Memory after bytes are stored at `a`, ascending (R43, R106). -/
def storeBytes (m : Memory) (a : Nat) (vs : List Byte) : Memory :=
  match vs with
  | [] => m
  | v :: rest => storeBytes (m.write a v) (a + 1) rest

/-- The bytes that ENV's next `8 * n` answers spell, and the state with them used up (R106). -/
def State.envBytes (s : State) (n : Nat) : List Byte × State :=
  match n with
  | 0 => ([], s)
  | n + 1 =>
    (byteOfLevels (s.envAnswers 8).1 :: ((s.envAnswers 8).2.envBytes n).1, ((s.envAnswers 8).2.envBytes n).2)

/-- The events of the byte loop of `BUS_READ_BUFFER` for `n` bytes stored at `a` upward: eight sampled pulses, the store, then
a ninth pulse with SDA low and released again while bytes remain, or released after the last (R106). -/
def readTrace (a n : Nat) (s : State) : List Event :=
  match n with
  | 0 => []
  | n + 1 =>
    (s.envAnswers 8).1.flatMap (fun l => [.tL, .c1, .th, .s l, .th, .c0]) ++ [.w a (byteOfLevels (s.envAnswers 8).1)] ++
      (if n = 0 then [.d1, .tL, .c1, .tH, .c0] else [.d0, .tL, .c1, .tH, .c0, .d1]) ++
        readTrace (a + 1) n (s.envAnswers 8).2

/-- The data bits of bytes in the order they go on a line: bytes in order, each most significant bit first (R43). -/
def bitStream (vs : List Byte) : List Bool := vs.flatMap bitsMsbFirst

/-- The waveform of a transmission of bytes with `n` lead-in ticks: START and lead-in high, two half-symbols per bit, END
low (R66, R142). -/
def frameOf (n : Nat) (vs : List Byte) : List Level :=
  List.replicate (n + 1) .H ++ (bitStream vs).flatMap manchester ++ [.L]

end Sys2Proof.Machine
end

