-- ==== Sys2Proof/Machine/Assembly.lean ====
section
/-! DEFINITION. The host's side of an operation: address bytes (rule R63), assembler lines (rule R74) and pseudo-instructions (rule R75), each as the host acts it stands for (rule R76). -/

namespace Sys2Proof.Machine

/-- `addr_byte = (a << 1) | rw` as an 8-bit value (R63). -/
def addrByte (a : BitVec 7) (rw : Bool) : Byte := a ++ BitVec.ofBool rw

/-- `ADDR_W(a)` (R75). -/
def addrW (a : BitVec 7) : Byte := addrByte a false

/-- `ADDR_R(a)` (R75). -/
def addrR (a : BitVec 7) : Byte := addrByte a true

/-- A line of a program (R74), the two pseudo-instructions of R75 among them. A device address is a number here: one
above 0x7F is refused at assembly (93_implementation_defined.md U9). -/
inductive AsmLine where
  | busInit
  | busStart
  | busStop
  | busWriteByte (b : Byte)
  | busReadByte
  | busReadBuffer (ptr len : Nat)
  | rfInit
  | rfTransmitBuffer (ptr len : Nat)
  | rfTransmitPacket (ptr len : Nat)
  | regWrite (a : Nat) (r v : Byte)
  | regRead (a : Nat) (r : Byte) (ptr len : Nat)
  deriving DecidableEq, Repr

/-- The host acts that issue an operation with no buffer operand. -/
def issueOf (i : Instr) : List HostAct := [.issue (encode i)]

/-- The host acts that issue a format M operation: the operand registers are written, then the word is presented (R76). -/
def issueWith (i : Instr) (ptr len : Nat) : List HostAct := [.writePtr ptr, .writeLen len, .issue (encode i)]

/-- The host acts of `REG_WRITE a, r, v` (R75). -/
def regWriteActs (a : BitVec 7) (r v : Byte) : List HostAct :=
  issueOf .busStart ++ issueOf (.busWriteByte (addrW a)) ++ issueOf (.busWriteByte r) ++ issueOf (.busWriteByte v) ++
    issueOf .busStop

/-- The host acts of `REG_READ a, r, ptr, len` (R75). -/
def regReadActs (a : BitVec 7) (r : Byte) (ptr len : Nat) : List HostAct :=
  issueOf .busStart ++ issueOf (.busWriteByte (addrW a)) ++ issueOf (.busWriteByte r) ++ issueOf .busStart ++
    issueOf (.busWriteByte (addrR a)) ++ issueWith .busReadBuffer ptr len ++ issueOf .busStop

/-- A line is well formed for a choice of parameters: its operands fit their registers and its device address seven bits. -/
def AsmLine.wf (p : Params) (l : AsmLine) : Bool :=
  match l with
  | .busInit => true
  | .busStart => true
  | .busStop => true
  | .busWriteByte _ => true
  | .busReadByte => true
  | .busReadBuffer ptr len => p.operandsFit ptr len
  | .rfInit => true
  | .rfTransmitBuffer ptr len => p.operandsFit ptr len
  | .rfTransmitPacket ptr len => p.operandsFit ptr len
  | .regWrite a _ _ => deviceAddressOk a
  | .regRead a _ ptr len => deviceAddressOk a && p.operandsFit ptr len

/-- The host acts of a line; none for a line that is not well formed. -/
def AsmLine.assemble (p : Params) (l : AsmLine) : Option (List HostAct) :=
  if l.wf p then
    match l with
    | .busInit => some (issueOf .busInit)
    | .busStart => some (issueOf .busStart)
    | .busStop => some (issueOf .busStop)
    | .busWriteByte b => some (issueOf (.busWriteByte b))
    | .busReadByte => some (issueOf .busReadByte)
    | .busReadBuffer ptr len => some (issueWith .busReadBuffer ptr len)
    | .rfInit => some (issueOf .rfInit)
    | .rfTransmitBuffer ptr len => some (issueWith .rfTransmitBuffer ptr len)
    | .rfTransmitPacket ptr len => some (issueWith .rfTransmitPacket ptr len)
    | .regWrite a r v => some (regWriteActs (BitVec.ofNat 7 a) r v)
    | .regRead a r ptr len => some (regReadActs (BitVec.ofNat 7 a) r ptr len)
  else none

/-- The host acts of a program, "a straight list of such lines" (R74). -/
def assemble (p : Params) (ls : List AsmLine) : Option (List HostAct) :=
  match ls with
  | [] => some []
  | l :: rest =>
    match l.assemble p, assemble p rest with
    | some xs, some ys => some (xs ++ ys)
    | _, _ => none

/-- A number as R74 writes it in hexadecimal. -/
def hexText (n : Nat) : String := "0x" ++ String.ofList (Nat.toDigits 16 n)

/-- A line as R74 and R75 spell it. -/
def AsmLine.text (l : AsmLine) : String :=
  match l with
  | .busInit => "BUS_INIT"
  | .busStart => "BUS_START"
  | .busStop => "BUS_STOP"
  | .busWriteByte b => "BUS_WRITE_BYTE " ++ hexText b.toNat ++ " -> ack"
  | .busReadByte => "BUS_READ_BYTE -> byte"
  | .busReadBuffer ptr len => "BUS_READ_BUFFER " ++ hexText ptr ++ ", " ++ hexText len
  | .rfInit => "RF_INIT"
  | .rfTransmitBuffer ptr len => "RF_TRANSMIT_BUFFER " ++ hexText ptr ++ ", " ++ hexText len ++ " -> status"
  | .rfTransmitPacket ptr len => "RF_TRANSMIT_PACKET " ++ hexText ptr ++ ", " ++ hexText len ++ " -> status"
  | .regWrite a r v => "REG_WRITE " ++ hexText a ++ ", " ++ hexText r.toNat ++ ", " ++ hexText v.toNat
  | .regRead a r ptr len =>
    "REG_READ " ++ hexText a ++ ", " ++ hexText r.toNat ++ ", " ++ hexText ptr ++ ", " ++ hexText len

end Sys2Proof.Machine
end

