-- ==== Sys2Proof/Safety.lean ====
section
/-! DEFINITION. The invariants of the machine (rules R15, R21, R41, R100, R108) and what it means for two states to agree on everything the spec specifies (rules R12, R15, R22). -/

namespace Sys2Proof.Machine

/-! ### Widths, memory and codes -/

/-- The registers hold values of their widths, memory is in canonical form inside the address space, the parameters are
legal, and `RES_STATUS` holds a code some operation produces (R6, R12, R15, R40, R70). -/
def State.DataInv (s : State) : Prop :=
  s.params.wf = true ∧ s.argPtr < 2 ^ s.params.addrBits ∧ s.argLen < 2 ^ s.params.lenBits ∧
    s.k < 2 ^ s.params.lenBits ∧ s.txBuf < 2 ^ s.params.addrBits ∧ s.txLen < 2 ^ s.params.lenBits ∧
    s.mem.wf = true ∧ s.mem.below s.params.space = true ∧ s.resStatus ≠ 3

/-! ### The foreground -/

/-- The operand registers name a non-empty buffer inside the address space (R41, R106, R133). -/
def State.operandsOk (s : State) : Prop := 1 ≤ s.argLen ∧ s.bufferFits = true

/-- What the pseudocode says of the working elements at micro-step `k` of an operation: the index names a micro-step, the
bit counter names a bit inside a bit loop, the byte counter a byte inside the byte loop, the operands were checked at
issue, and what `RF_TRANSMIT_BUFFER` has copied so far is what it was given (R13, R104 to R106, R133). -/
def FgAt (s : State) (op : Op) (k : Nat) : Prop :=
  k < (programOf op).length ∧
    match op with
    | .busInit => True
    | .busStart => True
    | .busStop => True
    | .busWriteByte => 1 ≤ k ∧ k ≤ 5 → s.i.toNat ≤ 7
    | .busReadByte => 2 ≤ k ∧ k ≤ 7 → s.i.toNat ≤ 7
    | .busReadBuffer =>
      s.operandsOk ∧ (2 ≤ k ∧ k ≤ 7 → s.i.toNat ≤ 7) ∧ (2 ≤ k → s.k < s.argLen) ∧ (k = 14 → s.k + 1 < s.argLen)
    | .rfInit => True
    | .rfTransmitBuffer => s.operandsOk ∧ (2 ≤ k → s.txBuf = s.argPtr) ∧ (3 ≤ k → s.txLen = s.argLen)
    | .rfTransmitPacket => True

/-- The foreground is at `READY` or at a micro-step whose conditions hold. -/
def State.FgInv (s : State) : Prop :=
  match s.fgPc with
  | .ready => True
  | .running op k => FgAt s op k

/-- "While `rf_state` is not IDLE, FG is in the wait of `transmit_buffer`" (R21 item 5). -/
def State.PortInv (s : State) : Prop := s.rfState = .IDLE ∨ s.fgPc = .running .rfTransmitBuffer 4

/-! ### The radio -/

/-- The counters of a transmission in the phase it is in (R15, R137 to R141). -/
def State.CountersOk (s : State) : Prop :=
  match s.rfState with
  | .IDLE => True
  | .START => True
  | .LEAD_IN => s.byteIdx = 0 ∧ s.bitIdx = 0 ∧ s.leadinCnt < s.params.leadInTicks
  | .BIT_PHASE1 => s.byteIdx < s.txLen ∧ s.bitIdx ≤ 7 ∧ s.leadinCnt = s.params.leadInTicks
  | .BIT_PHASE2 => s.byteIdx < s.txLen ∧ s.bitIdx ≤ 7 ∧ s.leadinCnt = s.params.leadInTicks
  | .END => s.byteIdx = s.txLen ∧ s.bitIdx = 0 ∧ s.leadinCnt = s.params.leadInTicks

/-- A transmission in flight has a non-empty buffer inside the address space and counters in range (R15, R133, R139). -/
def State.RadioInv (s : State) : Prop :=
  s.rfState = .IDLE ∨ (1 ≤ s.txLen ∧ s.params.bufferFits s.txBuf s.txLen = true ∧ s.CountersOk)

/-- The invariant of the machine. -/
def State.Inv (s : State) : Prop := s.DataInv ∧ s.FgInv ∧ s.PortInv ∧ s.RadioInv

/-! ### The bus lines -/

/-- The drive state of SCL at micro-step `k` of an operation, where the micro-steps before it fix it (R101 to R106). -/
def expectedSCL (op : Op) (k : Nat) : Option Drive :=
  match op, k with
  | .busInit, 1 => some .Z
  | .busStart, 4 => some .PU
  | .busStart, 5 => some .Z
  | .busStart, 6 => some .Z
  | .busStart, 7 => some .Z
  | .busStart, 8 => some .Z
  | .busStop, 3 => some .Z
  | .busStop, 4 => some .Z
  | .busStop, 5 => some .Z
  | .busWriteByte, k =>
    if k = 0 then none else if k = 4 ∨ k = 5 ∨ 9 ≤ k then some .Z else some .D0
  | .busReadByte, k =>
    if k = 0 then none else if (4 ≤ k ∧ k ≤ 7) ∨ 11 ≤ k then some .Z else some .D0
  | .busReadBuffer, k =>
    if k = 0 then none else if (4 ≤ k ∧ k ≤ 7) ∨ k = 12 ∨ k = 13 then some .Z else some .D0
  | _, _ => none

/-- The drive state of SDA at micro-step `k` of an operation, where the micro-steps before it fix it; during the ninth pulse
of `BUS_READ_BUFFER` it is low exactly while bytes remain (R101 to R106). -/
def expectedSDA (op : Op) (k : Nat) (s : State) : Option Drive :=
  match op with
  | .busInit => none
  | .busStart =>
    if k = 0 then none else if k = 1 then some .PU else if k ≤ 6 then some .Z else some .D0
  | .busStop => if k = 0 then none else if k ≤ 4 then some .D0 else some .Z
  | .busWriteByte => if 7 ≤ k then some .Z else none
  | .busReadByte => if 2 ≤ k then some .Z else none
  | .busReadBuffer =>
    if k ≤ 1 then none else if k ≤ 9 then some .Z
    else if s.k + 1 < s.argLen then some .D0 else some .Z
  | .rfInit => none
  | .rfTransmitBuffer => none
  | .rfTransmitPacket => none

/-- The three rest states of the bus lines: idle, started, held (R21 item 4, R108). -/
def State.linesAtRest (s : State) : Prop :=
  (s.drvSCL = .Z ∧ s.drvSDA = .Z) ∨ (s.drvSCL = .D0 ∧ s.drvSDA = .D0) ∨ (s.drvSCL = .D0 ∧ s.drvSDA = .Z)

/-- No bus operation has moved the lines since the last rest state: the foreground is `READY`, runs a radio operation, or
is about to run a bus operation's first micro-step. -/
def State.linesUnmoved (s : State) : Prop :=
  match s.fgPc with
  | .ready => True
  | .running op k => k = 0 ∨ op = .rfInit ∨ op = .rfTransmitBuffer ∨ op = .rfTransmitPacket

/-- The bus lines are as the operation in progress has left them, at rest between operations, and `PU` only between the two
micro-steps of a release inside `start` (R21 items 2 and 4, R100, R108). -/
def State.LinesInv (s : State) : Prop :=
  (s.linesUnmoved → s.linesAtRest) ∧
    (∀ op k, s.fgPc = .running op k →
      (∀ d, expectedSCL op k = some d → s.drvSCL = d) ∧ (∀ d, expectedSDA op k s = some d → s.drvSDA = d)) ∧
    (s.drvSDA = .PU → s.fgPc = .running .busStart 1) ∧ (s.drvSCL = .PU → s.fgPc = .running .busStart 4)

/-! ### Unspecified elements (R12, R15, R22) -/

/-- `sh` and `i` hold something the operation in progress will read before writing it. -/
def FgPc.usesShift (pc : FgPc) : Bool :=
  match pc with
  | .running .busWriteByte k => decide (1 ≤ k ∧ k ≤ 5)
  | .running .busReadByte k => decide (2 ≤ k)
  | .running .busReadBuffer k => decide (2 ≤ k ∧ k ≤ 8)
  | _ => false

/-- `s` holds a sample the operation in progress will read. -/
def FgPc.usesSample (pc : FgPc) : Bool :=
  match pc with
  | .running .busWriteByte k => decide (11 ≤ k)
  | .running .busReadByte k => decide (6 ≤ k ∧ k ≤ 7)
  | .running .busReadBuffer k => decide (6 ≤ k ∧ k ≤ 7)
  | _ => false

/-- `k` holds something the operation in progress will read. -/
def FgPc.usesByteCount (pc : FgPc) : Bool :=
  match pc with
  | .running .busReadBuffer k => decide (2 ≤ k)
  | _ => false

/-- `drv_SDA` decides what the operation in progress will sample. -/
def FgPc.usesSDA (pc : FgPc) : Bool :=
  match pc with
  | .running .busWriteByte k => decide (7 ≤ k ∧ k ≤ 10)
  | .running .busReadByte k => decide (2 ≤ k ∧ k ≤ 7)
  | .running .busReadBuffer k => decide (2 ≤ k ∧ k ≤ 9)
  | _ => false

/-- `tx_buf` is specified: a transmission is in flight, or `RF_TRANSMIT_BUFFER` has written it. -/
def State.usesTxBuf (s : State) : Bool :=
  s.busy || match s.fgPc with
    | .running .rfTransmitBuffer k => decide (2 ≤ k)
    | _ => false

/-- `tx_len` is specified: a transmission is in flight, or `RF_TRANSMIT_BUFFER` has written it. -/
def State.usesTxLen (s : State) : Bool :=
  s.busy || match s.fgPc with
    | .running .rfTransmitBuffer k => decide (3 ≤ k)
    | _ => false

/-- The counters are specified: a transmission is past its START tick. -/
def State.usesCounters (s : State) : Bool :=
  match s.rfState with
  | .IDLE => false
  | .START => false
  | .LEAD_IN => true
  | .BIT_PHASE1 => true
  | .BIT_PHASE2 => true
  | .END => true

/-- Two states agree on everything a rule may read: they may differ only in elements the spec leaves unspecified where they
stand, the drive states before an operation has written them, the working elements outside an operation, the result
elements, and the radio elements outside a transmission (R12, R15, R22, R70). -/
def Agree (s t : State) : Prop :=
  t = { s with
    drvSCL := t.drvSCL
    drvSDA := t.drvSDA
    drvRF := t.drvRF
    sh := t.sh
    i := t.i
    k := t.k
    sample := t.sample
    resStatus := t.resStatus
    resAck := t.resAck
    resByte := t.resByte
    txBuf := t.txBuf
    txLen := t.txLen
    byteIdx := t.byteIdx
    bitIdx := t.bitIdx
    leadinCnt := t.leadinCnt } ∧
    (s.fgPc.usesShift = true → t.sh = s.sh ∧ t.i = s.i) ∧ (s.fgPc.usesSample = true → t.sample = s.sample) ∧
    (s.fgPc.usesByteCount = true → t.k = s.k) ∧ (s.fgPc.usesSDA = true → t.drvSDA = s.drvSDA) ∧
    (s.usesTxBuf = true → t.txBuf = s.txBuf) ∧ (s.usesTxLen = true → t.txLen = s.txLen) ∧
    (s.usesCounters = true → t.byteIdx = s.byteIdx ∧ t.bitIdx = s.bitIdx ∧ t.leadinCnt = s.leadinCnt) ∧
    (s.rfState = .BIT_PHASE2 → t.drvRF = s.drvRF)

/-- Two answers match: next states that agree, or the same stop. -/
def ResultsAgree (a b : Result) : Prop :=
  match a, b with
  | .next s, .next t => Agree s t
  | .fault e, .fault f => e = f
  | .refused e, .refused f => e = f
  | _, _ => False

end Sys2Proof.Machine
end

