-- ==== Sys2Proof/Certificates/Slice0/Obligations.lean ====
section
/-! DEFINITION. The statements for the provers. Each docstring names the rule of spec/ it formalises. -/

open Sys2Proof Sys2Proof.Machine

/-! ### Encodings -/

/-- R68, R69: every legal word has one meaning and every operation one word; no bit of a word is dropped. -/
def Obligations.LegalWordsAreExactlyTheEncodings : Prop :=
  ∀ (w : CommandWord) (i : Instr), decode w = .ok i ↔ (WellFormed i = true ∧ w = encode i)

/-- R69: "A word w selects a row when `w & mask = match`. No two rows overlap." The decoder follows the table. -/
def Obligations.OpcodeTableSelectsOneRow : Prop :=
  (∀ w r q, r ∈ opcodeTable → q ∈ opcodeTable → r.selects w = true → q.selects w = true → r = q) ∧
    ∀ w m, (∃ i, decode w = .ok i ∧ mnemonic i = m) ↔ ∃ r ∈ opcodeTable, r.mnemonic = m ∧ r.selects w = true

/-- R71: exactly the words with a reserved `op`, a non-zero `zero` field, or non-zero `data` in format N or M are illegal. -/
def Obligations.IllegalWordsAreThoseOfTheRule : Prop :=
  ∀ w : CommandWord, (∃ why, decode w = .error why) ↔
    ((opField w).toNat = 0x0 ∨ (opField w).toNat = 0x7 ∨ 0xB ≤ (opField w).toNat ∨ zeroField w ≠ 0 ∨
      ((opField w).toNat ≠ 0x4 ∧ dataField w ≠ 0))

/-- R69 on words written out from its table: a sanity statement. -/
def Obligations.SampleWordsDecode : Prop :=
  decode 0b0001000000000000 = .ok .busInit ∧ decode 0b0010000000000000 = .ok .busStart ∧
    decode 0b0011000000000000 = .ok .busStop ∧ decode 0b0100000011101100 = .ok (.busWriteByte 0xEC) ∧
    decode 0b0101000000000000 = .ok .busReadByte ∧ decode 0b0110000000000000 = .ok .busReadBuffer ∧
    decode 0b1000000000000000 = .ok .rfInit ∧ decode 0b1001000000000000 = .ok .rfTransmitBuffer ∧
    decode 0b1010000000000000 = .ok .rfTransmitPacket ∧
    decode 0b0111000000000000 = .error (.reservedOp 0x7) ∧ decode 0b0100000100000000 = .error (.zeroFieldSet 1)

/-- R63: the address byte is the 7-bit address in bits 7:1 and the direction in bit 0. -/
def Obligations.AddressByteIsAddressThenDirection : Prop :=
  ∀ (a : BitVec 7) (rw : Bool),
    (addrByte a rw).toNat = 2 * a.toNat + rw.toNat ∧ (addrByte a rw).extractLsb' 1 7 = a ∧
      (addrByte a rw).getLsbD 0 = rw

/-- R73: the codes of `rf_state` are 0 to 5 in table order; 6 and 7 stand for no state. -/
def Obligations.RadioStateCodesAreTableOrder : Prop :=
  [RfState.IDLE, .START, .LEAD_IN, .BIT_PHASE1, .BIT_PHASE2, .END].map (fun r => r.code.toNat) = [0, 1, 2, 3, 4, 5] ∧
    (∀ r : RfState, RfState.ofCode r.code = some r) ∧ RfState.ofCode 6 = none ∧ RfState.ofCode 7 = none

/-- R60: a bus line is low exactly when the block or ENV drives it low. -/
def Obligations.BusLineIsWiredAnd : Prop :=
  ∀ (d : Drive) (pulls : Bool), (wireLevel d pulls = .L ↔ (d = .D0 ∨ pulls = true)) ∧
    (wireLevel d pulls = .H ↔ (d ≠ .D0 ∧ pulls = false))

/-- R64, R65: a 1 is low then high, a 0 high then low; RF_OUT shows high by a release. -/
def Obligations.ManchesterSymbolsOnTheRadioLine : Prop :=
  manchester true = [.L, .H] ∧ manchester false = [.H, .L] ∧ levelOfRf .Z = .H ∧ levelOfRf .D0 = .L ∧
    ∀ l, levelOfRf (rfDriveOf l) = l

/-! ### The command port and the step -/

/-- R76: at `READY` the block takes the word the host presents, and a step at a legal word is `exec` of its operation at
that state with the host's act and the turn used up. -/
def Obligations.StepIssuesTheDecodedInstruction : Prop :=
  ∀ (s : State) (i : Instr) (w : CommandWord) (acts : List HostAct),
    s.fgPc = .ready → s.hostQ = .issue w :: acts → decode w = .ok i →
      (∀ later, s.turns = .host :: later → step s = exec i { s with hostQ := acts, turns := later }) ∧
        (s.turns = [] → s.tickPossible = false → step s = exec i { s with hostQ := acts })

/-- R13: while an operation runs, an FG step is one micro-step of it, `exec` of the operation at that state. -/
def Obligations.StepRunsTheOperationInProgress : Prop :=
  ∀ (s : State) (op : Op) (k : Nat) (later : List Agent),
    s.fgPc = .running op k → s.turns = .fg :: later →
      step s = exec (instrOf op s.argByte) { s with turns := later }

/-- The next step after `withFetchWord` runs exactly the instruction whose word was placed (the model's own interface). -/
def Obligations.PlacedWordRunsNext : Prop :=
  ∀ (s : State) (i : Instr), WellFormed i = true →
    step (s.withFetchWord 16 (encode i).toNat) = exec i { s with fgPc := .ready }

/-- R71: an illegal word is refused: `RES_STATUS <- REFUSED` and no other state of the block changes (the host's act is
used up). -/
def Obligations.IllegalWordIsRefused : Prop :=
  ∀ (s : State) (w : CommandWord) (acts : List HostAct) (why : IllegalWord) (later : List Agent),
    s.fgPc = .ready → s.hostQ = .issue w :: acts → s.turns = .host :: later → decode w = .error why →
      step s = .next { s with resStatus := 2, hostQ := acts, turns := later } ∧ stepEvents s = []

/-- R12, R17, R40, R76, R196 row 1: what each act of the host does at its turn. Issue waits while an operation is in
progress, and so do the writes of the operand registers, which keep the bits that fit; setting `GIE` and storing a byte of
memory do not wait. Nothing else changes. The form of the acts, that operand writes wait and that wide values keep their
low bits are the model's (log entry 3). -/
def Obligations.IssueWaitsForReady : Prop :=
  ∀ (s : State) (a : HostAct) (acts : List HostAct) (later : List Agent), s.hostQ = a :: acts → s.turns = .host :: later →
    (s.fgPc ≠ .ready → (∀ w, a = .issue w → step s = .next { s with turns := later }) ∧
      (∀ p, a = .writePtr p → step s = .next { s with turns := later }) ∧
      (∀ n, a = .writeLen n → step s = .next { s with turns := later })) ∧
    (s.fgPc = .ready →
      (∀ p, a = .writePtr p →
        step s = .next { s with argPtr := p % 2 ^ s.params.addrBits, hostQ := acts, turns := later }) ∧
      (∀ n, a = .writeLen n →
        step s = .next { s with argLen := n % 2 ^ s.params.lenBits, hostQ := acts, turns := later })) ∧
    (∀ b, a = .setGie b → step s = .next { s with gie := b, hostQ := acts, turns := later }) ∧
    (∀ x v, a = .store x v → ∃ t, step s = .next t ∧
      t = { s with mem := t.mem, hostQ := acts, turns := later } ∧
      (s.mem.wf = true → t.mem.read (x % 2 ^ s.params.addrBits) = v) ∧
      ∀ y, y ≠ x % 2 ^ s.params.addrBits → t.mem.read y = s.mem.read y)

/-! ### The bus operations -/

/-- R101: `BUS_INIT` releases both lines, in two micro-steps, and changes nothing else. -/
def Obligations.BusInitReleasesBothLines : Prop :=
  ∀ s : State, s.fgPc = .ready →
    exec .busInit s = .next { s with fgPc := .running .busInit 0 } ∧
      execFor .busInit 3 s = .next { s with drvSCL := .Z, drvSDA := .Z, resStatus := 0 } ∧
      opTrace .busInit 3 s = [.c1, .d1]

/-- R102: `BUS_START` in nine micro-steps, ending with both lines driven low. -/
def Obligations.BusStartRunsItsProgram : Prop :=
  ∀ s : State, s.fgPc = .ready →
    exec .busStart s = .next { s with fgPc := .running .busStart 0 } ∧
      execFor .busStart 10 s = .next { s with drvSCL := .D0, drvSDA := .D0, resStatus := 0 } ∧
      opTrace .busStart 10 s = [.dP, .d1, .tL, .cP, .c1, .tL, .d0, .tL, .c0]

/-- R103: `BUS_STOP` in six micro-steps, ending with both lines released. -/
def Obligations.BusStopRunsItsProgram : Prop :=
  ∀ s : State, s.fgPc = .ready →
    exec .busStop s = .next { s with fgPc := .running .busStop 0 } ∧
      execFor .busStop 7 s = .next { s with drvSCL := .Z, drvSDA := .Z, resStatus := 0 } ∧
      opTrace .busStop 7 s = [.d0, .tL, .c1, .tL, .d1, .tL]

/-- R104: `BUS_WRITE_BYTE b` in 48 micro-steps: the bits most significant first, then one sample that is the result. The
working elements it used are left unspecified (R12). -/
def Obligations.BusWriteByteSendsAndReportsAck : Prop :=
  ∀ (b : Byte) (s : State), s.fgPc = .ready →
    exec (.busWriteByte b) s = .next { s with fgPc := .running .busWriteByte 0, argByte := b } ∧
      (∃ t, execFor (.busWriteByte b) 49 s = .next t ∧
        t = { s with
          drvSCL := .D0
          drvSDA := .Z
          argByte := b
          resAck := if s.envAnswer.1 = .L then 0 else 1
          resStatus := 0
          envQ := s.envAnswer.2.envQ
          sh := t.sh
          i := t.i
          sample := t.sample
          freeCtr := t.freeCtr }) ∧
      opTrace (.busWriteByte b) 49 s =
        [.c0] ++ (bitsMsbFirst b).flatMap (fun x => [if x then .d1 else .d0, .tL, .c1, .tH, .c0]) ++
          [.d1, .tL, .c1, .th, .s s.envAnswer.1, .th, .c0]

/-- R105: `BUS_READ_BYTE` in 55 micro-steps: eight samples, the first in bit 7, then NOT-ACKNOWLEDGED. -/
def Obligations.BusReadByteReturnsTheSampledByte : Prop :=
  ∀ s : State, s.fgPc = .ready →
    exec .busReadByte s = .next { s with fgPc := .running .busReadByte 0 } ∧
      (∃ t, execFor .busReadByte 56 s = .next t ∧
        t = { s with
          drvSCL := .D0
          drvSDA := .Z
          resByte := byteOfLevels (s.envAnswers 8).1
          resStatus := 0
          envQ := (s.envAnswers 8).2.envQ
          sh := t.sh
          i := t.i
          sample := t.sample
          freeCtr := t.freeCtr }) ∧
      opTrace .busReadByte 56 s =
        [.c0, .d1] ++ (s.envAnswers 8).1.flatMap (fun l => [.tL, .c1, .th, .s l, .th, .c0]) ++
          [.d1, .tL, .c1, .tH, .c0]

/-- R94, R105: the byte of eight sampled levels has the first in bit 7 and the last in bit 0. -/
def Obligations.SampledLevelsAccumulateMsbFirst : Prop :=
  ∀ a b c d e f g h : Level,
    (bitsMsbFirst (byteOfLevels [a, b, c, d, e, f, g, h])).map levelOfBit = [a, b, c, d, e, f, g, h]

/-- R106: `BUS_READ_BUFFER` with `len >= 1` inside the address space runs `55 * len + 1` micro-steps and stores the bytes
ENV sends at `ptr` upward, each before its ninth pulse. -/
def Obligations.BusReadBufferStoresTheBytesInOrder : Prop :=
  ∀ s : State, s.fgPc = .ready → 1 ≤ s.argLen → s.argPtr + s.argLen ≤ 2 ^ s.params.addrBits →
    exec .busReadBuffer s = .next { s with fgPc := .running .busReadBuffer 0 } ∧
      opTrace .busReadBuffer (55 * s.argLen + 2) s = [.c0, .d1] ++ readTrace s.argPtr s.argLen s ∧
      ∃ t, execFor .busReadBuffer (55 * s.argLen + 2) s = .next t ∧
        t = { s with
          drvSCL := .D0
          drvSDA := .Z
          mem := storeBytes s.mem s.argPtr (s.envBytes s.argLen).1
          resStatus := 0
          envQ := (s.envBytes s.argLen).2.envQ
          sh := t.sh
          i := t.i
          k := t.k
          sample := t.sample
          freeCtr := t.freeCtr }

/-- R106, R41: `BUS_READ_BUFFER` with `len = 0` completes with `OK` and no other effect; one past the top of the address
space is refused at issue with no other effect. -/
def Obligations.BusReadBufferEmptyOrPastTheTop : Prop :=
  ∀ s : State, s.fgPc = .ready →
    (s.argLen = 0 → exec .busReadBuffer s = .next { s with resStatus := 0 }) ∧
      (1 ≤ s.argLen → 2 ^ s.params.addrBits < s.argPtr + s.argLen →
        exec .busReadBuffer s = .next { s with resStatus := 2 })

/-- R43, R106: after the bytes are stored, memory at the buffer reads as those bytes in ascending order and every other
byte as before. -/
def Obligations.StoredBytesReadBackInOrder : Prop :=
  ∀ (m : Memory) (a : Nat) (vs : List Byte), m.wf = true →
    bytesAt (storeBytes m a vs) a vs.length = vs ∧
      ∀ x, (x < a ∨ a + vs.length ≤ x) → (storeBytes m a vs).read x = m.read x

/-- R110 property 1: with no responder pulling, the levels at the eight data clock highs are the byte's bits most
significant first; the ninth shows SDA released. -/
def Obligations.WrittenBitsShowMsbFirst : Prop :=
  ∀ (b : Byte) (s : State), s.fgPc = .ready →
    clockHighs (wires s).sda (opTrace (.busWriteByte b) 49 s) = (bitsMsbFirst b).map levelOfBit ++ [.H]

/-- R110 property 2: `start` then `stop` from the idle bus is exactly one falling and one rising edge on SDA while SCL is
high, and returns both lines to tri-state. -/
def Obligations.StartThenStopIsOneOfEach : Prop :=
  ∀ s : State, s.fgPc = .ready → s.drvSCL = .Z → s.drvSDA = .Z →
    ∃ t u, execFor .busStart 10 s = .next t ∧ execFor .busStop 7 t = .next u ∧
      conditions (wireTrace .busStart 10 s ++ wireTrace .busStop 7 t) = [.start, .stop] ∧
      u.drvSCL = .Z ∧ u.drvSDA = .Z

/-- R110 property 3: `read_buffer` acknowledges (SDA low at the ninth clock high) each byte but the last, at which the
block, as during the data bits, leaves SDA released. -/
def Obligations.ReadBufferAcknowledgesAllButTheLast : Prop :=
  ∀ s : State, s.fgPc = .ready → 1 ≤ s.argLen → s.argPtr + s.argLen ≤ 2 ^ s.params.addrBits →
    clockHighs (wires s).sda (opTrace .busReadBuffer (55 * s.argLen + 2) s) =
      (List.replicate (s.argLen - 1) (List.replicate 8 Level.H ++ [Level.L])).flatten ++ List.replicate 9 Level.H

/-- R102, R103 (corner cases): the conditions on the wires from each rest state, with no responder pulling. -/
def Obligations.StartAndStopConditionsFromEachRestState : Prop :=
  ∀ s : State, s.fgPc = .ready → s.linesAtRest →
    conditions (wireTrace .busStart 10 s) = [.start] ∧
      conditions (wireTrace .busStop 7 s) = (if s.drvSCL = .Z then [.start, .stop] else [.stop]) ∧
      conditions (wireTrace .busInit 3 s) = (if s.drvSDA = .D0 then [.stop] else [])

/-- R100: outside `BUS_INIT`, `BUS_START` and `BUS_STOP` the block changes SDA's level only while SCL is low. -/
def Obligations.DataChangesOnlyWhileClockIsLow : Prop :=
  ∀ (s t : State) (op : Op) (k : Nat), s.LinesInv → s.fgPc = .running op k →
    op ≠ .busInit → op ≠ .busStart → op ≠ .busStop → fgStep s = .next t → (wires t).sda ≠ (wires s).sda →
      s.drvSCL = .D0 ∧ t.drvSCL = .D0

/-- R85: a read of a line the block drives low is `L` and asks nobody; a read of any other is ENV's next answer. -/
def Obligations.PinReadAsksTheEnvironment : Prop :=
  ∀ (s : State) (X : Line),
    (s.drive X = .D0 → s.pinRead X = (.L, s)) ∧
      (s.drive X ≠ .D0 → ∀ l rest, s.envQ = l :: rest → s.pinRead X = (l, { s with envQ := rest }))

/-- R85: "Every `pin_read` in this spec happens with `drv_SDA = Z`". -/
def Obligations.EverySampleIsOfAReleasedLine : Prop :=
  ∀ (s : State) (op : Op) (k : Nat), s.LinesInv → s.fgPc = .running op k →
    (programOf op)[k]? = some .sampleSda → s.drvSDA = .Z

/-- R107: an operation that does not wait is at `READY` again after exactly its fixed number of micro-steps, whatever ENV
does, and not before. -/
def Obligations.OperationsEndOnTheirFixedCount : Prop :=
  ∀ (s : State) (i : Instr) (n : Nat), s.fgPc = .ready →
    (i = .busReadBuffer → s.argPtr + s.argLen ≤ 2 ^ s.params.addrBits) → microSteps i s.argLen = some n →
      (∃ t, execFor i (n + 1) s = .next t ∧ t.fgPc = .ready) ∧
        ∀ m, 1 ≤ m → m ≤ n → ∃ t, execFor i m s = .next t ∧ t.fgPc ≠ .ready

/-- R209: the delays each operation contains. -/
def Obligations.OperationsContainTheirDelays : Prop :=
  ∀ s : State, s.fgPc = .ready →
    minDuration s.params (opTrace .busInit 3 s) = 0 ∧
      minDuration s.params (opTrace .busStart 10 s) = 3 * s.params.tLow ∧
      minDuration s.params (opTrace .busStop 7 s) = 3 * s.params.tLow ∧
      (∀ b, minDuration s.params (opTrace (.busWriteByte b) 49 s) = 9 * (s.params.tLow + s.params.tHigh)) ∧
      minDuration s.params (opTrace .busReadByte 56 s) = 9 * (s.params.tLow + s.params.tHigh) ∧
      (1 ≤ s.argLen → s.argPtr + s.argLen ≤ 2 ^ s.params.addrBits →
        minDuration s.params (opTrace .busReadBuffer (55 * s.argLen + 2) s) =
          9 * s.argLen * (s.params.tLow + s.params.tHigh)) ∧
      minDuration s.params (opTrace .rfInit 4 s) = 0

/-! ### The radio operations -/

/-- R131: `RF_INIT` in three micro-steps, in this order: RF_OUT low, the state machine idle, the timer on; `GIE` is not
touched. -/
def Obligations.RfInitSetsTheTransmitterUp : Prop :=
  ∀ s : State, s.fgPc = .ready →
    exec .rfInit s = .next { s with fgPc := .running .rfInit 0 } ∧
      execFor .rfInit 2 s = .next { s with drvRF := .D0, fgPc := .running .rfInit 1 } ∧
      execFor .rfInit 3 s = .next { s with drvRF := .D0, rfState := .IDLE, fgPc := .running .rfInit 2 } ∧
      execFor .rfInit 4 s = .next { s with drvRF := .D0, rfState := .IDLE, timerOn := true, resStatus := 0 }

/-- R133, R49 point 1: `RF_TRANSMIT_BUFFER` copies the address, then the length, then arms, and waits; the wait ends with
`OK` at `IDLE`. -/
def Obligations.RfTransmitBufferArmsAndWaits : Prop :=
  (∀ s : State, s.fgPc = .ready → 1 ≤ s.argLen → s.argPtr + s.argLen ≤ 2 ^ s.params.addrBits → s.rfState = .IDLE →
    exec .rfTransmitBuffer s = .next { s with fgPc := .running .rfTransmitBuffer 0 } ∧
      execFor .rfTransmitBuffer 3 s =
        .next { s with txBuf := s.argPtr, fgPc := .running .rfTransmitBuffer 2 } ∧
      execFor .rfTransmitBuffer 4 s =
        .next { s with txBuf := s.argPtr, txLen := s.argLen, fgPc := .running .rfTransmitBuffer 3 } ∧
      execFor .rfTransmitBuffer 5 s = .next { s with
        txBuf := s.argPtr
        txLen := s.argLen
        rfState := .START
        fgPc := .running .rfTransmitBuffer 4 }) ∧
    ∀ s : State, s.fgPc = .running .rfTransmitBuffer 4 →
      (s.rfState ≠ .IDLE → exec .rfTransmitBuffer s = .next s) ∧
        (s.rfState = .IDLE → exec .rfTransmitBuffer s = .next { s with resStatus := 0, fgPc := .ready })

/-- R133: refused at issue for an empty buffer or one past the top; `BUSY` at m0 while a transmission is in flight; neither
changes anything else. -/
def Obligations.RfTransmitBufferTurnedAway : Prop :=
  (∀ s : State, s.fgPc = .ready → (s.argLen = 0 ∨ 2 ^ s.params.addrBits < s.argPtr + s.argLen) →
    exec .rfTransmitBuffer s = .next { s with resStatus := 2 }) ∧
    ∀ s : State, s.fgPc = .running .rfTransmitBuffer 0 → s.rfState ≠ .IDLE →
      exec .rfTransmitBuffer s = .next { s with resStatus := 1, fgPc := .ready }

/-- R134: `RF_TRANSMIT_PACKET` is always refused and writes nothing else. -/
def Obligations.RfTransmitPacketIsRefused : Prop :=
  ∀ s : State, s.fgPc = .ready → exec .rfTransmitPacket s = .next { s with resStatus := 2 }

/-- R133, R142: armed and with ticks possible, the operation completes with `OK` once exactly `N + 16 * len + 2` ticks have
run, however many wait steps fall between them. -/
def Obligations.TransmissionCompletesAfterItsTicks : Prop :=
  ∀ (s : State) (ts rest : List Agent), s.fgPc = .running .rfTransmitBuffer 4 → s.rfState = .START →
    s.timerOn = true → s.gie = true → 1 ≤ s.params.leadInTicks → 1 ≤ s.txLen →
    s.txBuf + s.txLen ≤ 2 ^ s.params.addrBits → (∀ a ∈ ts, a = .fg ∨ a = .tick) →
    ts.count .tick = s.params.leadInTicks + 16 * s.txLen + 2 → s.turns = ts ++ .fg :: rest →
      ∃ t, stepsFor (ts.length + 1) s = .next t ∧
        t = { s with
          fgPc := .ready
          resStatus := 0
          rfState := .IDLE
          drvRF := .D0
          byteIdx := t.byteIdx
          bitIdx := t.bitIdx
          leadinCnt := t.leadinCnt
          turns := rest }

/-- R133, R145: with fewer ticks the operation is still waiting and the transmission still in flight. -/
def Obligations.TransmissionWaitsForItsTicks : Prop :=
  ∀ (s : State) (ts rest : List Agent), s.fgPc = .running .rfTransmitBuffer 4 → s.rfState = .START →
    1 ≤ s.params.leadInTicks → 1 ≤ s.txLen → s.txBuf + s.txLen ≤ 2 ^ s.params.addrBits →
    (∀ a ∈ ts, a = .fg ∨ a = .tick) → ts.count .tick < s.params.leadInTicks + 16 * s.txLen + 2 →
    s.turns = ts ++ rest →
      ∃ t, stepsFor ts.length s = .next t ∧ t.fgPc = .running .rfTransmitBuffer 4 ∧ t.rfState ≠ .IDLE ∧
        t.turns = rest

/-- R195: with ticks off and a transmission armed, the operation repeats its wait for ever, changing nothing. With ticks
possible, and a host that does not clear `GIE`, the transmission resumes from wherever it stands and the operation ends
with `OK` (R165: "with it `RF_TRANSMIT_BUFFER` ends"). -/
def Obligations.WaitWithoutTicksNeverEnds : Prop :=
  (∀ (s : State) (n : Nat) (a : Agent), s.fgPc = .running .rfTransmitBuffer 4 → s.rfState ≠ .IDLE →
    (s.timerOn = false ∨ s.gie = false) → (a = .fg ∨ a = .tick) →
      stepsFor n { s with turns := List.replicate n a } = .next { s with turns := [] }) ∧
    ∀ s : State, s.Inv → s.fgPc = .running .rfTransmitBuffer 4 → s.timerOn = true → s.gie = true →
      HostAct.setGie false ∉ s.hostQ →
        ∃ n t, stepsFor n s = .next t ∧ t.fgPc = .ready ∧ t.resStatus = 0 ∧ t.rfState = .IDLE

/-! ### The tick -/

/-- R142, R66: the frame law. The ticks after arming run in the states of the table, show the lead-in, the Manchester
symbols of the buffer's bits and the final low, and leave the machine idle with RF_OUT low. -/
def Obligations.TransmissionFollowsTheFrameLaw : Prop :=
  ∀ s : State, s.rfState = .START → 1 ≤ s.params.leadInTicks → 1 ≤ s.txLen →
    s.txBuf + s.txLen ≤ 2 ^ s.params.addrBits →
      waveform (s.params.leadInTicks + 16 * s.txLen + 2) s =
        frameOf s.params.leadInTicks (bytesAt s.mem s.txBuf s.txLen) ∧
      observe tickHandler (fun t => [t.rfState]) (s.params.leadInTicks + 16 * s.txLen + 2) s =
        .START :: (List.replicate s.params.leadInTicks .LEAD_IN ++
          (List.replicate (8 * s.txLen) [RfState.BIT_PHASE1, .BIT_PHASE2]).flatten ++ [.END]) ∧
      ∃ t, ticksFor (s.params.leadInTicks + 16 * s.txLen + 2) s = .next t ∧ t.rfState = .IDLE ∧ t.drvRF = .D0

/-- R136, R137, R138, R141: the ticks that load nothing. -/
def Obligations.IdleStartLeadInAndEndTicks : Prop :=
  ∀ s : State,
    (s.rfState = .IDLE → tickHandler s = .next s) ∧
      (s.rfState = .START → tickHandler s =
        .next { s with byteIdx := 0, bitIdx := 0, leadinCnt := 0, drvRF := .Z, rfState := .LEAD_IN }) ∧
      (s.rfState = .LEAD_IN → tickHandler s = .next { s with
        drvRF := .Z
        leadinCnt := s.leadinCnt + 1
        rfState := if s.leadinCnt + 1 = s.params.leadInTicks then .BIT_PHASE1 else .LEAD_IN }) ∧
      (s.rfState = .END → tickHandler s = .next { s with drvRF := .D0, rfState := .IDLE })

/-- R139: the first half-symbol: bit `7 - bit_idx` of the byte now at `tx_buf + byte_idx`, 1 as low and 0 as high. -/
def Obligations.FirstHalfTickShowsTheInvertedBit : Prop :=
  ∀ s : State, s.rfState = .BIT_PHASE1 → s.txBuf + s.byteIdx < 2 ^ s.params.addrBits → s.bitIdx ≤ 7 →
    tickHandler s = .next { s with
      drvRF := if (s.mem.read (s.txBuf + s.byteIdx)).getLsbD (7 - s.bitIdx) = true then .D0 else .Z
      rfState := .BIT_PHASE2 }

/-- R140: the second half-symbol: the complement of the level on the line, then the counters. -/
def Obligations.SecondHalfTickComplementsAndCounts : Prop :=
  ∀ s : State, s.rfState = .BIT_PHASE2 →
    (s.bitIdx ≠ 7 → tickHandler s = .next { s with
      drvRF := if s.drvRF = .D0 then .Z else .D0
      bitIdx := s.bitIdx + 1
      rfState := if s.byteIdx = s.txLen then .END else .BIT_PHASE1 }) ∧
      (s.bitIdx = 7 → tickHandler s = .next { s with
        drvRF := if s.drvRF = .D0 then .Z else .D0
        bitIdx := 0
        byteIdx := s.byteIdx + 1
        rfState := if s.byteIdx + 1 = s.txLen then .END else .BIT_PHASE1 })

/-- R163, R164: a tick runs the handler exactly when `timer_on` and `GIE` are 1; a period while either is 0 produces
nothing. R165: from any state with both 1, and a host that does not clear `GIE`, a TICK step eventually occurs. -/
def Obligations.TicksRunExactlyWhenEnabled : Prop :=
  (∀ (s : State) (later : List Agent), s.turns = .tick :: later →
    (s.timerOn = true → s.gie = true → step s = tickHandler { s with turns := later }) ∧
      ((s.timerOn = false ∨ s.gie = false) → step s = .next { s with turns := later })) ∧
    ∀ s : State, s.Inv → s.timerOn = true → s.gie = true → HostAct.setGie false ∉ s.hostQ →
      ∃ n t, stepsFor n s = .next t ∧ t.choose.1 = some .tick ∧ t.tickPossible = true

/-- R167 point 3: a tick writes `rf_state`, the counters and `drv_RF`, and nothing else. -/
def Obligations.TickWritesOnlyRadioState : Prop :=
  ∀ s t : State, tickStep s = .next t →
    t = { s with
      rfState := t.rfState
      byteIdx := t.byteIdx
      bitIdx := t.bitIdx
      leadinCnt := t.leadinCnt
      drvRF := t.drvRF }

/-- R144: every change of `rf_state` a step can make is one of the table's; arming starts from IDLE in every state that
meets the invariant. -/
def Obligations.RadioStateMovesByTheTable : Prop :=
  ∀ s t : State, step s = .next t → t.rfState ≠ s.rfState →
    (s.choose.1 = some .fg ∧
      ((s.fgPc = .running .rfInit 1 ∧ t.rfState = .IDLE) ∨
        (s.fgPc = .running .rfTransmitBuffer 3 ∧ t.rfState = .START ∧ (s.Inv → s.rfState = .IDLE)))) ∨
    (s.choose.1 = some .tick ∧ s.timerOn = true ∧ s.gie = true ∧
      ((s.rfState = .START ∧ t.rfState = .LEAD_IN) ∨
        (s.rfState = .LEAD_IN ∧ t.rfState = .BIT_PHASE1 ∧ t.leadinCnt = s.params.leadInTicks) ∨
        (s.rfState = .BIT_PHASE1 ∧ t.rfState = .BIT_PHASE2) ∨
        (s.rfState = .BIT_PHASE2 ∧ t.rfState = .BIT_PHASE1 ∧ t.byteIdx ≠ t.txLen) ∨
        (s.rfState = .BIT_PHASE2 ∧ t.rfState = .END ∧ t.byteIdx = t.txLen) ∨
        (s.rfState = .END ∧ t.rfState = .IDLE)))

/-- R49 points 2 and 3: once armed, TICK is the only writer of the radio state. -/
def Obligations.OnlyTheTickMovesAnArmedTransmission : Prop :=
  ∀ s t : State, s.Inv → s.rfState ≠ .IDLE → s.choose.1 ≠ some .tick → step s = .next t →
    t.rfState = s.rfState ∧ t.txBuf = s.txBuf ∧ t.txLen = s.txLen ∧ t.byteIdx = s.byteIdx ∧ t.bitIdx = s.bitIdx ∧
      t.leadinCnt = s.leadinCnt ∧ t.drvRF = s.drvRF

/-! ### Frames -/

/-- R101 to R106: what one foreground step of a bus operation may write. -/
def Obligations.BusOperationFrame : Prop :=
  ∀ (i : Instr) (s t : State), exec i s = .next t →
    ((i = .busInit ∨ i = .busStart ∨ i = .busStop) →
      t = { s with drvSCL := t.drvSCL, drvSDA := t.drvSDA, resStatus := t.resStatus, fgPc := t.fgPc }) ∧
    (∀ b, i = .busWriteByte b →
      t = { s with
        drvSCL := t.drvSCL
        drvSDA := t.drvSDA
        argByte := if s.fgPc = .ready then b else s.argByte
        sh := t.sh
        i := t.i
        sample := t.sample
        resStatus := t.resStatus
        resAck := t.resAck
        fgPc := t.fgPc
        envQ := t.envQ
        freeCtr := t.freeCtr }) ∧
    (i = .busReadByte →
      t = { s with
        drvSCL := t.drvSCL
        drvSDA := t.drvSDA
        sh := t.sh
        i := t.i
        sample := t.sample
        resStatus := t.resStatus
        resByte := t.resByte
        fgPc := t.fgPc
        envQ := t.envQ
        freeCtr := t.freeCtr }) ∧
    (i = .busReadBuffer →
      t = { s with
        drvSCL := t.drvSCL
        drvSDA := t.drvSDA
        sh := t.sh
        i := t.i
        k := t.k
        sample := t.sample
        resStatus := t.resStatus
        fgPc := t.fgPc
        mem := t.mem
        envQ := t.envQ
        freeCtr := t.freeCtr })

/-- R96: `BUS_READ_BUFFER` stores one byte, `sh` at `ARG_PTR + k`, in its store micro-step only; every other byte of memory
reads as before. -/
def Obligations.BusReadBufferMemoryFrame : Prop :=
  ∀ s t : State, exec .busReadBuffer s = .next t →
    (∀ a, ¬(s.fgPc = .running .busReadBuffer 8 ∧ a = storeAddress s) → t.mem.read a = s.mem.read a) ∧
      (s.fgPc = .running .busReadBuffer 8 → s.mem.wf = true → t.mem.read (storeAddress s) = s.sh)

/-- R131, R133, R134: what one foreground step of a radio operation may write; none touches a bus pin or memory. -/
def Obligations.RadioOperationFrame : Prop :=
  ∀ (i : Instr) (s t : State), exec i s = .next t →
    (i = .rfInit →
      t = { s with
        drvRF := t.drvRF
        rfState := t.rfState
        timerOn := t.timerOn
        resStatus := t.resStatus
        fgPc := t.fgPc }) ∧
    (i = .rfTransmitBuffer →
      t = { s with
        txBuf := t.txBuf
        txLen := t.txLen
        rfState := t.rfState
        resStatus := t.resStatus
        fgPc := t.fgPc }) ∧
    (i = .rfTransmitPacket → t = { s with resStatus := t.resStatus })

/-- R17: `timer_on` is set by `RF_INIT`'s last micro-step and cleared by nothing; `GIE` changes only by the host. -/
def Obligations.ControlBitsHaveOneWriter : Prop :=
  ∀ s t : State, step s = .next t →
    (s.timerOn = true → t.timerOn = true) ∧
      (t.timerOn ≠ s.timerOn → s.choose.1 = some .fg ∧ s.fgPc = .running .rfInit 2) ∧
      (t.gie ≠ s.gie → s.choose.1 = some .host ∧ s.hostQ.head? = some (.setGie t.gie))

/-- R21 item 3: `drv_RF` is written only by radio `initialize` and by TICK; `drv_SCL` and `drv_SDA` only by bus
operations. -/
def Obligations.EachPinHasItsOwner : Prop :=
  ∀ s t : State, step s = .next t →
    (t.drvRF ≠ s.drvRF → s.choose.1 = some .tick ∨ (s.choose.1 = some .fg ∧ s.fgPc = .running .rfInit 0)) ∧
      ((t.drvSCL ≠ s.drvSCL ∨ t.drvSDA ≠ s.drvSDA) → s.choose.1 = some .fg ∧
        ∃ op k, s.fgPc = .running op k ∧ op ≠ .rfInit ∧ op ≠ .rfTransmitBuffer ∧ op ≠ .rfTransmitPacket)

/-! ### Whole-machine laws -/

/-- R22, R190: what the spec says of reset; no tick is possible, and the block does nothing until the host acts. -/
def Obligations.ResetIsIdleAndReady : Prop :=
  State.reset.rfState = .IDLE ∧ State.reset.timerOn = false ∧ State.reset.fgPc = .ready ∧
    State.reset.tickPossible = false ∧ step State.reset = .next State.reset

/-- The invariant holds at reset. -/
def Obligations.ResetMeetsTheInvariant : Prop := State.reset.Inv

/-- R15, R21, R40, R41: every step keeps the invariant. -/
def Obligations.StepKeepsTheInvariant : Prop := ∀ s t : State, s.Inv → step s = .next t → t.Inv

/-- R160: no step of a state that meets the invariant stops: no micro-step and no tick rule can abort. -/
def Obligations.NothingAborts : Prop := ∀ s : State, s.Inv → ∃ t, step s = .next t

/-- The line invariant holds at reset: a consequence of the launch drive states the model chose (log entry 1). -/
def Obligations.ResetMeetsTheLineInvariant : Prop := State.reset.LinesInv

/-- R21 items 2 and 4, R108: every step keeps the line invariant: the rest states between operations, `PU` only inside the
two releases of `start`. -/
def Obligations.StepKeepsTheLineInvariant : Prop := ∀ s t : State, s.LinesInv → step s = .next t → t.LinesInv

/-- R22: "No rule reads an unspecified element before an operation has written it": two states that differ only in
unspecified elements step to states that do. -/
def Obligations.UnspecifiedElementsNeverMatter : Prop :=
  ∀ s t : State, Agree s t → ResultsAgree (step s) (step t)

/-- R199: ticks that fall between the micro-steps of a bus operation while no transmission is in flight change no state
and no bus event: only the number of foreground turns counts. -/
def Obligations.IdleTicksNeverDisturbTheBus : Prop :=
  ∀ (s : State) (ts rest : List Agent) (op : Op) (k : Nat), s.rfState = .IDLE → s.fgPc = .running op k →
    op ≠ .rfTransmitBuffer → (∀ a ∈ ts, a = .fg ∨ a = .tick) → s.turns = ts ++ rest →
      stepsFor ts.length s = iterate fgStep (ts.count .fg) { s with turns := rest } ∧
        (trace ts.length s).filter Event.onBus = observe fgStep fgEvents (ts.count .fg) { s with turns := rest }

/-- R208: states that differ only in durations step alike and show the same events. -/
def Obligations.DurationsNeverMatter : Prop :=
  ∀ (s : State) (h l b : Nat),
    step { s with params := { s.params with tHalf := h, tLow := l, bitRate := b } } =
      mapNext (step s) (fun t => { t with params := { t.params with tHalf := h, tLow := l, bitRate := b } }) ∧
    stepEvents { s with params := { s.params with tHalf := h, tLow := l, bitRate := b } } = stepEvents s
end

