-- ==== Sys2Proof/Laws/Memory.lean ====
section
/-! SUPPORT. Buffer memory: reads after writes, and that every operation on it keeps the canonical form. -/

namespace Sys2Proof.Machine

theorem Memory.read_nil (a : Nat) : Memory.read [] a = unlistedByte := rfl

theorem Memory.read_cons (c : Host.Cell) (m : Memory) (a : Nat) :
    Memory.read (c :: m) a = if c.1 = a then c.2 else Memory.read m a := rfl

theorem Memory.wfFrom_cons (lo : Nat) (c : Host.Cell) (m : Memory) :
    Memory.wfFrom lo (c :: m) = true ↔ lo ≤ c.1 ∧ c.2 ≠ unlistedByte ∧ Memory.wfFrom (c.1 + 1) m = true := by
  simp [Memory.wfFrom, and_assoc]

theorem Memory.below_cons (n : Nat) (c : Host.Cell) (m : Memory) :
    Memory.below n (c :: m) = true ↔ c.1 < n ∧ Memory.below n m = true := by
  simp [Memory.below]

/-- A lower bound may be lowered. -/
theorem Memory.wfFrom_mono {lo lo' : Nat} {m : Memory} (h : lo' ≤ lo) (hm : Memory.wfFrom lo m = true) :
    Memory.wfFrom lo' m = true := by
  cases m with
  | nil => rfl
  | cons c m =>
    rw [Memory.wfFrom_cons] at *
    exact ⟨by omega, hm.2⟩

/-- An address below every listed one reads as unlisted. -/
theorem Memory.read_of_wfFrom {lo a : Nat} {m : Memory} (h : a < lo) (hm : Memory.wfFrom lo m = true) :
    Memory.read m a = unlistedByte := by
  induction m generalizing lo with
  | nil => rfl
  | cons c m ih =>
    rw [Memory.wfFrom_cons] at hm
    rw [Memory.read_cons, if_neg (by omega)]
    exact ih (by omega) hm.2.2

theorem Memory.read_putFront_self {a : Nat} {v : Byte} {m : Memory} (hm : Memory.wfFrom (a + 1) m = true) :
    Memory.read (Memory.cons a v m) a = v := by
  unfold Memory.cons
  split
  · next h => rw [Memory.read_of_wfFrom (by omega) hm, h]
  · simp [Memory.read_cons]

theorem Memory.read_putFront_other {a x : Nat} {v : Byte} {m : Memory} (h : x ≠ a) :
    Memory.read (Memory.cons a v m) x = Memory.read m x := by
  unfold Memory.cons
  split
  · rfl
  · simp [Memory.read_cons, Ne.symm h]

/-- A write leaves every other byte alone, in any memory. -/
theorem Memory.read_write_other {m : Memory} {a x : Nat} {v : Byte} (h : x ≠ a) :
    (m.write a v).read x = m.read x := by
  induction m with
  | nil => exact Memory.read_putFront_other h
  | cons c m ih =>
    unfold Memory.write
    split
    · exact Memory.read_putFront_other h
    · split
      · next hc => rw [Memory.read_putFront_other h, Memory.read_cons, if_neg (by omega)]
      · rw [Memory.read_cons, Memory.read_cons, ih]

theorem Memory.read_write_self_from {lo : Nat} {m : Memory} {a : Nat} {v : Byte} (hm : Memory.wfFrom lo m = true) :
    (m.write a v).read a = v := by
  induction m generalizing lo with
  | nil => exact Memory.read_putFront_self rfl
  | cons c m ih =>
    have hm' := (Memory.wfFrom_cons _ _ _).1 hm
    unfold Memory.write
    split
    · next h =>
      exact Memory.read_putFront_self ((Memory.wfFrom_cons _ _ _).2 ⟨by omega, hm'.2⟩)
    · split
      · next h => exact Memory.read_putFront_self (h ▸ hm'.2.2)
      · rw [Memory.read_cons, if_neg (by omega)]
        exact ih hm'.2.2

/-- A read after a write to the same place gives the value written. -/
theorem Memory.read_write_self {m : Memory} {a : Nat} {v : Byte} (hm : m.wf = true) : (m.write a v).read a = v :=
  Memory.read_write_self_from hm

theorem Memory.wfFrom_putFront {lo a : Nat} {v : Byte} {m : Memory} (ha : lo ≤ a)
    (hm : Memory.wfFrom (a + 1) m = true) : Memory.wfFrom lo (Memory.cons a v m) = true := by
  unfold Memory.cons
  split
  · exact Memory.wfFrom_mono (by omega) hm
  · next h => exact (Memory.wfFrom_cons _ _ _).2 ⟨ha, h, hm⟩

theorem Memory.wfFrom_write {lo : Nat} {m : Memory} {a : Nat} {v : Byte} (ha : lo ≤ a)
    (hm : Memory.wfFrom lo m = true) : Memory.wfFrom lo (m.write a v) = true := by
  induction m generalizing lo with
  | nil => exact Memory.wfFrom_putFront ha rfl
  | cons c m ih =>
    have hm' := (Memory.wfFrom_cons _ _ _).1 hm
    unfold Memory.write
    split
    · exact Memory.wfFrom_putFront ha ((Memory.wfFrom_cons _ _ _).2 ⟨by omega, hm'.2⟩)
    · split
      · next h => exact Memory.wfFrom_putFront ha (h ▸ hm'.2.2)
      · exact (Memory.wfFrom_cons _ _ _).2 ⟨hm'.1, hm'.2.1, ih (by omega) hm'.2.2⟩

/-- A write keeps the canonical form. -/
theorem Memory.wf_write {m : Memory} {a : Nat} {v : Byte} (hm : m.wf = true) : (m.write a v).wf = true :=
  Memory.wfFrom_write (by omega) hm

theorem Memory.below_putFront {n a : Nat} {v : Byte} {m : Memory} (ha : a < n) (hm : Memory.below n m = true) :
    Memory.below n (Memory.cons a v m) = true := by
  unfold Memory.cons
  split
  · exact hm
  · exact (Memory.below_cons _ _ _).2 ⟨ha, hm⟩

/-- A write inside the address space keeps every listed address inside it. -/
theorem Memory.below_write {n : Nat} {m : Memory} {a : Nat} {v : Byte} (ha : a < n) (hm : m.below n = true) :
    (m.write a v).below n = true := by
  induction m with
  | nil => exact Memory.below_putFront ha rfl
  | cons c m ih =>
    have hm' := (Memory.below_cons _ _ _).1 hm
    unfold Memory.write
    split
    · exact Memory.below_putFront ha hm
    · split
      · exact Memory.below_putFront ha hm'.2
      · exact (Memory.below_cons _ _ _).2 ⟨hm'.1, ih hm'.2⟩

/-- `MemWrite` answers a next state exactly for an address that exists, and then writes that byte only. -/
theorem State.memWrite_next {s t : State} {a : Nat} {v : Byte} (h : s.memWrite a v = .next t) :
    a < s.params.space ∧ t = { s with mem := s.mem.write a v } := by
  unfold State.memWrite at h
  split at h
  · next hs => exact ⟨by simpa [State.inSpace] using hs, by cases h; rfl⟩
  · cases h

/-- `MemRead` gives the byte of any address that exists. -/
theorem State.memRead_eq {s : State} {a : Nat} (h : a < s.params.space) : s.memRead a = some (s.mem.read a) := by
  simp [State.memRead, State.inSpace, h]

/-- Memory at reset is in canonical form. -/
theorem reset_mem_wf : State.reset.mem.wf = true := rfl

end Sys2Proof.Machine
end

