-- ==== Sys2Proof/Laws/State.lean ====
section
/-! SUPPORT. Each update of the state, field by field: what it writes and what it leaves. -/

namespace Sys2Proof.Machine

/-! ### setSCL -/

@[simp] theorem setSCL_params (s : State) (d : Drive) : (s.setDrive .SCL d).params = s.params := rfl
@[simp] theorem setSCL_drvSCL (s : State) (d : Drive) : (s.setDrive .SCL d).drvSCL = d := rfl
@[simp] theorem setSCL_drvSDA (s : State) (d : Drive) : (s.setDrive .SCL d).drvSDA = s.drvSDA := rfl
@[simp] theorem setSCL_drvRF (s : State) (d : Drive) : (s.setDrive .SCL d).drvRF = s.drvRF := rfl
@[simp] theorem setSCL_argByte (s : State) (d : Drive) : (s.setDrive .SCL d).argByte = s.argByte := rfl
@[simp] theorem setSCL_argPtr (s : State) (d : Drive) : (s.setDrive .SCL d).argPtr = s.argPtr := rfl
@[simp] theorem setSCL_argLen (s : State) (d : Drive) : (s.setDrive .SCL d).argLen = s.argLen := rfl
@[simp] theorem setSCL_sh (s : State) (d : Drive) : (s.setDrive .SCL d).sh = s.sh := rfl
@[simp] theorem setSCL_i (s : State) (d : Drive) : (s.setDrive .SCL d).i = s.i := rfl
@[simp] theorem setSCL_k (s : State) (d : Drive) : (s.setDrive .SCL d).k = s.k := rfl
@[simp] theorem setSCL_sample (s : State) (d : Drive) : (s.setDrive .SCL d).sample = s.sample := rfl
@[simp] theorem setSCL_resStatus (s : State) (d : Drive) : (s.setDrive .SCL d).resStatus = s.resStatus := rfl
@[simp] theorem setSCL_resAck (s : State) (d : Drive) : (s.setDrive .SCL d).resAck = s.resAck := rfl
@[simp] theorem setSCL_resByte (s : State) (d : Drive) : (s.setDrive .SCL d).resByte = s.resByte := rfl
@[simp] theorem setSCL_fgPc (s : State) (d : Drive) : (s.setDrive .SCL d).fgPc = s.fgPc := rfl
@[simp] theorem setSCL_rfState (s : State) (d : Drive) : (s.setDrive .SCL d).rfState = s.rfState := rfl
@[simp] theorem setSCL_txBuf (s : State) (d : Drive) : (s.setDrive .SCL d).txBuf = s.txBuf := rfl
@[simp] theorem setSCL_txLen (s : State) (d : Drive) : (s.setDrive .SCL d).txLen = s.txLen := rfl
@[simp] theorem setSCL_byteIdx (s : State) (d : Drive) : (s.setDrive .SCL d).byteIdx = s.byteIdx := rfl
@[simp] theorem setSCL_bitIdx (s : State) (d : Drive) : (s.setDrive .SCL d).bitIdx = s.bitIdx := rfl
@[simp] theorem setSCL_leadinCnt (s : State) (d : Drive) : (s.setDrive .SCL d).leadinCnt = s.leadinCnt := rfl
@[simp] theorem setSCL_timerOn (s : State) (d : Drive) : (s.setDrive .SCL d).timerOn = s.timerOn := rfl
@[simp] theorem setSCL_gie (s : State) (d : Drive) : (s.setDrive .SCL d).gie = s.gie := rfl
@[simp] theorem setSCL_mem (s : State) (d : Drive) : (s.setDrive .SCL d).mem = s.mem := rfl
@[simp] theorem setSCL_hostQ (s : State) (d : Drive) : (s.setDrive .SCL d).hostQ = s.hostQ := rfl
@[simp] theorem setSCL_envQ (s : State) (d : Drive) : (s.setDrive .SCL d).envQ = s.envQ := rfl
@[simp] theorem setSCL_turns (s : State) (d : Drive) : (s.setDrive .SCL d).turns = s.turns := rfl
@[simp] theorem setSCL_fairIn (s : State) (d : Drive) : (s.setDrive .SCL d).fairIn = s.fairIn := rfl
@[simp] theorem setSCL_freeCtr (s : State) (d : Drive) : (s.setDrive .SCL d).freeCtr = s.freeCtr := rfl

/-! ### setSDA -/

@[simp] theorem setSDA_params (s : State) (d : Drive) : (s.setDrive .SDA d).params = s.params := rfl
@[simp] theorem setSDA_drvSCL (s : State) (d : Drive) : (s.setDrive .SDA d).drvSCL = s.drvSCL := rfl
@[simp] theorem setSDA_drvSDA (s : State) (d : Drive) : (s.setDrive .SDA d).drvSDA = d := rfl
@[simp] theorem setSDA_drvRF (s : State) (d : Drive) : (s.setDrive .SDA d).drvRF = s.drvRF := rfl
@[simp] theorem setSDA_argByte (s : State) (d : Drive) : (s.setDrive .SDA d).argByte = s.argByte := rfl
@[simp] theorem setSDA_argPtr (s : State) (d : Drive) : (s.setDrive .SDA d).argPtr = s.argPtr := rfl
@[simp] theorem setSDA_argLen (s : State) (d : Drive) : (s.setDrive .SDA d).argLen = s.argLen := rfl
@[simp] theorem setSDA_sh (s : State) (d : Drive) : (s.setDrive .SDA d).sh = s.sh := rfl
@[simp] theorem setSDA_i (s : State) (d : Drive) : (s.setDrive .SDA d).i = s.i := rfl
@[simp] theorem setSDA_k (s : State) (d : Drive) : (s.setDrive .SDA d).k = s.k := rfl
@[simp] theorem setSDA_sample (s : State) (d : Drive) : (s.setDrive .SDA d).sample = s.sample := rfl
@[simp] theorem setSDA_resStatus (s : State) (d : Drive) : (s.setDrive .SDA d).resStatus = s.resStatus := rfl
@[simp] theorem setSDA_resAck (s : State) (d : Drive) : (s.setDrive .SDA d).resAck = s.resAck := rfl
@[simp] theorem setSDA_resByte (s : State) (d : Drive) : (s.setDrive .SDA d).resByte = s.resByte := rfl
@[simp] theorem setSDA_fgPc (s : State) (d : Drive) : (s.setDrive .SDA d).fgPc = s.fgPc := rfl
@[simp] theorem setSDA_rfState (s : State) (d : Drive) : (s.setDrive .SDA d).rfState = s.rfState := rfl
@[simp] theorem setSDA_txBuf (s : State) (d : Drive) : (s.setDrive .SDA d).txBuf = s.txBuf := rfl
@[simp] theorem setSDA_txLen (s : State) (d : Drive) : (s.setDrive .SDA d).txLen = s.txLen := rfl
@[simp] theorem setSDA_byteIdx (s : State) (d : Drive) : (s.setDrive .SDA d).byteIdx = s.byteIdx := rfl
@[simp] theorem setSDA_bitIdx (s : State) (d : Drive) : (s.setDrive .SDA d).bitIdx = s.bitIdx := rfl
@[simp] theorem setSDA_leadinCnt (s : State) (d : Drive) : (s.setDrive .SDA d).leadinCnt = s.leadinCnt := rfl
@[simp] theorem setSDA_timerOn (s : State) (d : Drive) : (s.setDrive .SDA d).timerOn = s.timerOn := rfl
@[simp] theorem setSDA_gie (s : State) (d : Drive) : (s.setDrive .SDA d).gie = s.gie := rfl
@[simp] theorem setSDA_mem (s : State) (d : Drive) : (s.setDrive .SDA d).mem = s.mem := rfl
@[simp] theorem setSDA_hostQ (s : State) (d : Drive) : (s.setDrive .SDA d).hostQ = s.hostQ := rfl
@[simp] theorem setSDA_envQ (s : State) (d : Drive) : (s.setDrive .SDA d).envQ = s.envQ := rfl
@[simp] theorem setSDA_turns (s : State) (d : Drive) : (s.setDrive .SDA d).turns = s.turns := rfl
@[simp] theorem setSDA_fairIn (s : State) (d : Drive) : (s.setDrive .SDA d).fairIn = s.fairIn := rfl
@[simp] theorem setSDA_freeCtr (s : State) (d : Drive) : (s.setDrive .SDA d).freeCtr = s.freeCtr := rfl

/-! ### rfSet -/

@[simp] theorem rfSet_params (s : State) (v : Level) : (s.rfSet v).params = s.params := rfl
@[simp] theorem rfSet_drvSCL (s : State) (v : Level) : (s.rfSet v).drvSCL = s.drvSCL := rfl
@[simp] theorem rfSet_drvSDA (s : State) (v : Level) : (s.rfSet v).drvSDA = s.drvSDA := rfl
@[simp] theorem rfSet_drvRF (s : State) (v : Level) : (s.rfSet v).drvRF = rfDriveOf v := rfl
@[simp] theorem rfSet_argByte (s : State) (v : Level) : (s.rfSet v).argByte = s.argByte := rfl
@[simp] theorem rfSet_argPtr (s : State) (v : Level) : (s.rfSet v).argPtr = s.argPtr := rfl
@[simp] theorem rfSet_argLen (s : State) (v : Level) : (s.rfSet v).argLen = s.argLen := rfl
@[simp] theorem rfSet_sh (s : State) (v : Level) : (s.rfSet v).sh = s.sh := rfl
@[simp] theorem rfSet_i (s : State) (v : Level) : (s.rfSet v).i = s.i := rfl
@[simp] theorem rfSet_k (s : State) (v : Level) : (s.rfSet v).k = s.k := rfl
@[simp] theorem rfSet_sample (s : State) (v : Level) : (s.rfSet v).sample = s.sample := rfl
@[simp] theorem rfSet_resStatus (s : State) (v : Level) : (s.rfSet v).resStatus = s.resStatus := rfl
@[simp] theorem rfSet_resAck (s : State) (v : Level) : (s.rfSet v).resAck = s.resAck := rfl
@[simp] theorem rfSet_resByte (s : State) (v : Level) : (s.rfSet v).resByte = s.resByte := rfl
@[simp] theorem rfSet_fgPc (s : State) (v : Level) : (s.rfSet v).fgPc = s.fgPc := rfl
@[simp] theorem rfSet_rfState (s : State) (v : Level) : (s.rfSet v).rfState = s.rfState := rfl
@[simp] theorem rfSet_txBuf (s : State) (v : Level) : (s.rfSet v).txBuf = s.txBuf := rfl
@[simp] theorem rfSet_txLen (s : State) (v : Level) : (s.rfSet v).txLen = s.txLen := rfl
@[simp] theorem rfSet_byteIdx (s : State) (v : Level) : (s.rfSet v).byteIdx = s.byteIdx := rfl
@[simp] theorem rfSet_bitIdx (s : State) (v : Level) : (s.rfSet v).bitIdx = s.bitIdx := rfl
@[simp] theorem rfSet_leadinCnt (s : State) (v : Level) : (s.rfSet v).leadinCnt = s.leadinCnt := rfl
@[simp] theorem rfSet_timerOn (s : State) (v : Level) : (s.rfSet v).timerOn = s.timerOn := rfl
@[simp] theorem rfSet_gie (s : State) (v : Level) : (s.rfSet v).gie = s.gie := rfl
@[simp] theorem rfSet_mem (s : State) (v : Level) : (s.rfSet v).mem = s.mem := rfl
@[simp] theorem rfSet_hostQ (s : State) (v : Level) : (s.rfSet v).hostQ = s.hostQ := rfl
@[simp] theorem rfSet_envQ (s : State) (v : Level) : (s.rfSet v).envQ = s.envQ := rfl
@[simp] theorem rfSet_turns (s : State) (v : Level) : (s.rfSet v).turns = s.turns := rfl
@[simp] theorem rfSet_fairIn (s : State) (v : Level) : (s.rfSet v).fairIn = s.fairIn := rfl
@[simp] theorem rfSet_freeCtr (s : State) (v : Level) : (s.rfSet v).freeCtr = s.freeCtr := rfl

/-! ### goto -/

@[simp] theorem goto_params (s : State) (op : Op) (n : Nat) : (s.goto op n).params = s.params := rfl
@[simp] theorem goto_drvSCL (s : State) (op : Op) (n : Nat) : (s.goto op n).drvSCL = s.drvSCL := rfl
@[simp] theorem goto_drvSDA (s : State) (op : Op) (n : Nat) : (s.goto op n).drvSDA = s.drvSDA := rfl
@[simp] theorem goto_drvRF (s : State) (op : Op) (n : Nat) : (s.goto op n).drvRF = s.drvRF := rfl
@[simp] theorem goto_argByte (s : State) (op : Op) (n : Nat) : (s.goto op n).argByte = s.argByte := rfl
@[simp] theorem goto_argPtr (s : State) (op : Op) (n : Nat) : (s.goto op n).argPtr = s.argPtr := rfl
@[simp] theorem goto_argLen (s : State) (op : Op) (n : Nat) : (s.goto op n).argLen = s.argLen := rfl
@[simp] theorem goto_sh (s : State) (op : Op) (n : Nat) : (s.goto op n).sh = s.sh := rfl
@[simp] theorem goto_i (s : State) (op : Op) (n : Nat) : (s.goto op n).i = s.i := rfl
@[simp] theorem goto_k (s : State) (op : Op) (n : Nat) : (s.goto op n).k = s.k := rfl
@[simp] theorem goto_sample (s : State) (op : Op) (n : Nat) : (s.goto op n).sample = s.sample := rfl
@[simp] theorem goto_resStatus (s : State) (op : Op) (n : Nat) : (s.goto op n).resStatus = s.resStatus := rfl
@[simp] theorem goto_resAck (s : State) (op : Op) (n : Nat) : (s.goto op n).resAck = s.resAck := rfl
@[simp] theorem goto_resByte (s : State) (op : Op) (n : Nat) : (s.goto op n).resByte = s.resByte := rfl
@[simp] theorem goto_fgPc (s : State) (op : Op) (n : Nat) : (s.goto op n).fgPc = .running op n := rfl
@[simp] theorem goto_rfState (s : State) (op : Op) (n : Nat) : (s.goto op n).rfState = s.rfState := rfl
@[simp] theorem goto_txBuf (s : State) (op : Op) (n : Nat) : (s.goto op n).txBuf = s.txBuf := rfl
@[simp] theorem goto_txLen (s : State) (op : Op) (n : Nat) : (s.goto op n).txLen = s.txLen := rfl
@[simp] theorem goto_byteIdx (s : State) (op : Op) (n : Nat) : (s.goto op n).byteIdx = s.byteIdx := rfl
@[simp] theorem goto_bitIdx (s : State) (op : Op) (n : Nat) : (s.goto op n).bitIdx = s.bitIdx := rfl
@[simp] theorem goto_leadinCnt (s : State) (op : Op) (n : Nat) : (s.goto op n).leadinCnt = s.leadinCnt := rfl
@[simp] theorem goto_timerOn (s : State) (op : Op) (n : Nat) : (s.goto op n).timerOn = s.timerOn := rfl
@[simp] theorem goto_gie (s : State) (op : Op) (n : Nat) : (s.goto op n).gie = s.gie := rfl
@[simp] theorem goto_mem (s : State) (op : Op) (n : Nat) : (s.goto op n).mem = s.mem := rfl
@[simp] theorem goto_hostQ (s : State) (op : Op) (n : Nat) : (s.goto op n).hostQ = s.hostQ := rfl
@[simp] theorem goto_envQ (s : State) (op : Op) (n : Nat) : (s.goto op n).envQ = s.envQ := rfl
@[simp] theorem goto_turns (s : State) (op : Op) (n : Nat) : (s.goto op n).turns = s.turns := rfl
@[simp] theorem goto_fairIn (s : State) (op : Op) (n : Nat) : (s.goto op n).fairIn = s.fairIn := rfl
@[simp] theorem goto_freeCtr (s : State) (op : Op) (n : Nat) : (s.goto op n).freeCtr = s.freeCtr := rfl

/-! ### complete -/

@[simp] theorem complete_params (s : State) (st : BitVec 2) : (s.complete st).params = s.params := rfl
@[simp] theorem complete_drvSCL (s : State) (st : BitVec 2) : (s.complete st).drvSCL = s.drvSCL := rfl
@[simp] theorem complete_drvSDA (s : State) (st : BitVec 2) : (s.complete st).drvSDA = s.drvSDA := rfl
@[simp] theorem complete_drvRF (s : State) (st : BitVec 2) : (s.complete st).drvRF = s.drvRF := rfl
@[simp] theorem complete_argByte (s : State) (st : BitVec 2) : (s.complete st).argByte = s.argByte := rfl
@[simp] theorem complete_argPtr (s : State) (st : BitVec 2) : (s.complete st).argPtr = s.argPtr := rfl
@[simp] theorem complete_argLen (s : State) (st : BitVec 2) : (s.complete st).argLen = s.argLen := rfl
@[simp] theorem complete_sh (s : State) (st : BitVec 2) : (s.complete st).sh = s.sh := rfl
@[simp] theorem complete_i (s : State) (st : BitVec 2) : (s.complete st).i = s.i := rfl
@[simp] theorem complete_k (s : State) (st : BitVec 2) : (s.complete st).k = s.k := rfl
@[simp] theorem complete_sample (s : State) (st : BitVec 2) : (s.complete st).sample = s.sample := rfl
@[simp] theorem complete_resStatus (s : State) (st : BitVec 2) : (s.complete st).resStatus = st := rfl
@[simp] theorem complete_resAck (s : State) (st : BitVec 2) : (s.complete st).resAck = s.resAck := rfl
@[simp] theorem complete_resByte (s : State) (st : BitVec 2) : (s.complete st).resByte = s.resByte := rfl
@[simp] theorem complete_fgPc (s : State) (st : BitVec 2) : (s.complete st).fgPc = .ready := rfl
@[simp] theorem complete_rfState (s : State) (st : BitVec 2) : (s.complete st).rfState = s.rfState := rfl
@[simp] theorem complete_txBuf (s : State) (st : BitVec 2) : (s.complete st).txBuf = s.txBuf := rfl
@[simp] theorem complete_txLen (s : State) (st : BitVec 2) : (s.complete st).txLen = s.txLen := rfl
@[simp] theorem complete_byteIdx (s : State) (st : BitVec 2) : (s.complete st).byteIdx = s.byteIdx := rfl
@[simp] theorem complete_bitIdx (s : State) (st : BitVec 2) : (s.complete st).bitIdx = s.bitIdx := rfl
@[simp] theorem complete_leadinCnt (s : State) (st : BitVec 2) : (s.complete st).leadinCnt = s.leadinCnt := rfl
@[simp] theorem complete_timerOn (s : State) (st : BitVec 2) : (s.complete st).timerOn = s.timerOn := rfl
@[simp] theorem complete_gie (s : State) (st : BitVec 2) : (s.complete st).gie = s.gie := rfl
@[simp] theorem complete_mem (s : State) (st : BitVec 2) : (s.complete st).mem = s.mem := rfl
@[simp] theorem complete_hostQ (s : State) (st : BitVec 2) : (s.complete st).hostQ = s.hostQ := rfl
@[simp] theorem complete_envQ (s : State) (st : BitVec 2) : (s.complete st).envQ = s.envQ := rfl
@[simp] theorem complete_turns (s : State) (st : BitVec 2) : (s.complete st).turns = s.turns := rfl
@[simp] theorem complete_fairIn (s : State) (st : BitVec 2) : (s.complete st).fairIn = s.fairIn := rfl
@[simp] theorem complete_freeCtr (s : State) (st : BitVec 2) : (s.complete st).freeCtr = s.freeCtr := rfl

/-! ### refuse -/

@[simp] theorem refuse_params (s : State) : (s.refuse).params = s.params := rfl
@[simp] theorem refuse_drvSCL (s : State) : (s.refuse).drvSCL = s.drvSCL := rfl
@[simp] theorem refuse_drvSDA (s : State) : (s.refuse).drvSDA = s.drvSDA := rfl
@[simp] theorem refuse_drvRF (s : State) : (s.refuse).drvRF = s.drvRF := rfl
@[simp] theorem refuse_argByte (s : State) : (s.refuse).argByte = s.argByte := rfl
@[simp] theorem refuse_argPtr (s : State) : (s.refuse).argPtr = s.argPtr := rfl
@[simp] theorem refuse_argLen (s : State) : (s.refuse).argLen = s.argLen := rfl
@[simp] theorem refuse_sh (s : State) : (s.refuse).sh = s.sh := rfl
@[simp] theorem refuse_i (s : State) : (s.refuse).i = s.i := rfl
@[simp] theorem refuse_k (s : State) : (s.refuse).k = s.k := rfl
@[simp] theorem refuse_sample (s : State) : (s.refuse).sample = s.sample := rfl
@[simp] theorem refuse_resStatus (s : State) : (s.refuse).resStatus = statusRefused := rfl
@[simp] theorem refuse_resAck (s : State) : (s.refuse).resAck = s.resAck := rfl
@[simp] theorem refuse_resByte (s : State) : (s.refuse).resByte = s.resByte := rfl
@[simp] theorem refuse_fgPc (s : State) : (s.refuse).fgPc = s.fgPc := rfl
@[simp] theorem refuse_rfState (s : State) : (s.refuse).rfState = s.rfState := rfl
@[simp] theorem refuse_txBuf (s : State) : (s.refuse).txBuf = s.txBuf := rfl
@[simp] theorem refuse_txLen (s : State) : (s.refuse).txLen = s.txLen := rfl
@[simp] theorem refuse_byteIdx (s : State) : (s.refuse).byteIdx = s.byteIdx := rfl
@[simp] theorem refuse_bitIdx (s : State) : (s.refuse).bitIdx = s.bitIdx := rfl
@[simp] theorem refuse_leadinCnt (s : State) : (s.refuse).leadinCnt = s.leadinCnt := rfl
@[simp] theorem refuse_timerOn (s : State) : (s.refuse).timerOn = s.timerOn := rfl
@[simp] theorem refuse_gie (s : State) : (s.refuse).gie = s.gie := rfl
@[simp] theorem refuse_mem (s : State) : (s.refuse).mem = s.mem := rfl
@[simp] theorem refuse_hostQ (s : State) : (s.refuse).hostQ = s.hostQ := rfl
@[simp] theorem refuse_envQ (s : State) : (s.refuse).envQ = s.envQ := rfl
@[simp] theorem refuse_turns (s : State) : (s.refuse).turns = s.turns := rfl
@[simp] theorem refuse_fairIn (s : State) : (s.refuse).fairIn = s.fairIn := rfl
@[simp] theorem refuse_freeCtr (s : State) : (s.refuse).freeCtr = s.freeCtr := rfl

/-! ### beginRead -/

@[simp] theorem beginRead_params (s : State) : (s.beginRead).params = s.params := rfl
@[simp] theorem beginRead_drvSCL (s : State) : (s.beginRead).drvSCL = s.drvSCL := rfl
@[simp] theorem beginRead_drvSDA (s : State) : (s.beginRead).drvSDA = s.drvSDA := rfl
@[simp] theorem beginRead_drvRF (s : State) : (s.beginRead).drvRF = s.drvRF := rfl
@[simp] theorem beginRead_argByte (s : State) : (s.beginRead).argByte = s.argByte := rfl
@[simp] theorem beginRead_argPtr (s : State) : (s.beginRead).argPtr = s.argPtr := rfl
@[simp] theorem beginRead_argLen (s : State) : (s.beginRead).argLen = s.argLen := rfl
@[simp] theorem beginRead_sh (s : State) : (s.beginRead).sh = 0 := rfl
@[simp] theorem beginRead_i (s : State) : (s.beginRead).i = 7 := rfl
@[simp] theorem beginRead_k (s : State) : (s.beginRead).k = s.k := rfl
@[simp] theorem beginRead_sample (s : State) : (s.beginRead).sample = s.sample := rfl
@[simp] theorem beginRead_resStatus (s : State) : (s.beginRead).resStatus = s.resStatus := rfl
@[simp] theorem beginRead_resAck (s : State) : (s.beginRead).resAck = s.resAck := rfl
@[simp] theorem beginRead_resByte (s : State) : (s.beginRead).resByte = s.resByte := rfl
@[simp] theorem beginRead_fgPc (s : State) : (s.beginRead).fgPc = s.fgPc := rfl
@[simp] theorem beginRead_rfState (s : State) : (s.beginRead).rfState = s.rfState := rfl
@[simp] theorem beginRead_txBuf (s : State) : (s.beginRead).txBuf = s.txBuf := rfl
@[simp] theorem beginRead_txLen (s : State) : (s.beginRead).txLen = s.txLen := rfl
@[simp] theorem beginRead_byteIdx (s : State) : (s.beginRead).byteIdx = s.byteIdx := rfl
@[simp] theorem beginRead_bitIdx (s : State) : (s.beginRead).bitIdx = s.bitIdx := rfl
@[simp] theorem beginRead_leadinCnt (s : State) : (s.beginRead).leadinCnt = s.leadinCnt := rfl
@[simp] theorem beginRead_timerOn (s : State) : (s.beginRead).timerOn = s.timerOn := rfl
@[simp] theorem beginRead_gie (s : State) : (s.beginRead).gie = s.gie := rfl
@[simp] theorem beginRead_mem (s : State) : (s.beginRead).mem = s.mem := rfl
@[simp] theorem beginRead_hostQ (s : State) : (s.beginRead).hostQ = s.hostQ := rfl
@[simp] theorem beginRead_envQ (s : State) : (s.beginRead).envQ = s.envQ := rfl
@[simp] theorem beginRead_turns (s : State) : (s.beginRead).turns = s.turns := rfl
@[simp] theorem beginRead_fairIn (s : State) : (s.beginRead).fairIn = s.fairIn := rfl
@[simp] theorem beginRead_freeCtr (s : State) : (s.beginRead).freeCtr = s.freeCtr := rfl

/-! ### beginWrite -/

@[simp] theorem beginWrite_params (s : State) : (s.beginWrite).params = s.params := rfl
@[simp] theorem beginWrite_drvSCL (s : State) : (s.beginWrite).drvSCL = s.drvSCL := rfl
@[simp] theorem beginWrite_drvSDA (s : State) : (s.beginWrite).drvSDA = s.drvSDA := rfl
@[simp] theorem beginWrite_drvRF (s : State) : (s.beginWrite).drvRF = s.drvRF := rfl
@[simp] theorem beginWrite_argByte (s : State) : (s.beginWrite).argByte = s.argByte := rfl
@[simp] theorem beginWrite_argPtr (s : State) : (s.beginWrite).argPtr = s.argPtr := rfl
@[simp] theorem beginWrite_argLen (s : State) : (s.beginWrite).argLen = s.argLen := rfl
@[simp] theorem beginWrite_sh (s : State) : (s.beginWrite).sh = s.argByte := rfl
@[simp] theorem beginWrite_i (s : State) : (s.beginWrite).i = 7 := rfl
@[simp] theorem beginWrite_k (s : State) : (s.beginWrite).k = s.k := rfl
@[simp] theorem beginWrite_sample (s : State) : (s.beginWrite).sample = s.sample := rfl
@[simp] theorem beginWrite_resStatus (s : State) : (s.beginWrite).resStatus = s.resStatus := rfl
@[simp] theorem beginWrite_resAck (s : State) : (s.beginWrite).resAck = s.resAck := rfl
@[simp] theorem beginWrite_resByte (s : State) : (s.beginWrite).resByte = s.resByte := rfl
@[simp] theorem beginWrite_fgPc (s : State) : (s.beginWrite).fgPc = s.fgPc := rfl
@[simp] theorem beginWrite_rfState (s : State) : (s.beginWrite).rfState = s.rfState := rfl
@[simp] theorem beginWrite_txBuf (s : State) : (s.beginWrite).txBuf = s.txBuf := rfl
@[simp] theorem beginWrite_txLen (s : State) : (s.beginWrite).txLen = s.txLen := rfl
@[simp] theorem beginWrite_byteIdx (s : State) : (s.beginWrite).byteIdx = s.byteIdx := rfl
@[simp] theorem beginWrite_bitIdx (s : State) : (s.beginWrite).bitIdx = s.bitIdx := rfl
@[simp] theorem beginWrite_leadinCnt (s : State) : (s.beginWrite).leadinCnt = s.leadinCnt := rfl
@[simp] theorem beginWrite_timerOn (s : State) : (s.beginWrite).timerOn = s.timerOn := rfl
@[simp] theorem beginWrite_gie (s : State) : (s.beginWrite).gie = s.gie := rfl
@[simp] theorem beginWrite_mem (s : State) : (s.beginWrite).mem = s.mem := rfl
@[simp] theorem beginWrite_hostQ (s : State) : (s.beginWrite).hostQ = s.hostQ := rfl
@[simp] theorem beginWrite_envQ (s : State) : (s.beginWrite).envQ = s.envQ := rfl
@[simp] theorem beginWrite_turns (s : State) : (s.beginWrite).turns = s.turns := rfl
@[simp] theorem beginWrite_fairIn (s : State) : (s.beginWrite).fairIn = s.fairIn := rfl
@[simp] theorem beginWrite_freeCtr (s : State) : (s.beginWrite).freeCtr = s.freeCtr := rfl

/-! ### takeBit -/

@[simp] theorem takeBit_params (s : State) : (s.takeBit).params = s.params := rfl
@[simp] theorem takeBit_drvSCL (s : State) : (s.takeBit).drvSCL = s.drvSCL := rfl
@[simp] theorem takeBit_drvSDA (s : State) : (s.takeBit).drvSDA = s.drvSDA := rfl
@[simp] theorem takeBit_drvRF (s : State) : (s.takeBit).drvRF = s.drvRF := rfl
@[simp] theorem takeBit_argByte (s : State) : (s.takeBit).argByte = s.argByte := rfl
@[simp] theorem takeBit_argPtr (s : State) : (s.takeBit).argPtr = s.argPtr := rfl
@[simp] theorem takeBit_argLen (s : State) : (s.takeBit).argLen = s.argLen := rfl
@[simp] theorem takeBit_sh (s : State) : (s.takeBit).sh = shiftIn s.sh (bitOfLevel s.sample) := rfl
@[simp] theorem takeBit_i (s : State) : (s.takeBit).i = s.i := rfl
@[simp] theorem takeBit_k (s : State) : (s.takeBit).k = s.k := rfl
@[simp] theorem takeBit_sample (s : State) : (s.takeBit).sample = s.sample := rfl
@[simp] theorem takeBit_resStatus (s : State) : (s.takeBit).resStatus = s.resStatus := rfl
@[simp] theorem takeBit_resAck (s : State) : (s.takeBit).resAck = s.resAck := rfl
@[simp] theorem takeBit_resByte (s : State) : (s.takeBit).resByte = s.resByte := rfl
@[simp] theorem takeBit_fgPc (s : State) : (s.takeBit).fgPc = s.fgPc := rfl
@[simp] theorem takeBit_rfState (s : State) : (s.takeBit).rfState = s.rfState := rfl
@[simp] theorem takeBit_txBuf (s : State) : (s.takeBit).txBuf = s.txBuf := rfl
@[simp] theorem takeBit_txLen (s : State) : (s.takeBit).txLen = s.txLen := rfl
@[simp] theorem takeBit_byteIdx (s : State) : (s.takeBit).byteIdx = s.byteIdx := rfl
@[simp] theorem takeBit_bitIdx (s : State) : (s.takeBit).bitIdx = s.bitIdx := rfl
@[simp] theorem takeBit_leadinCnt (s : State) : (s.takeBit).leadinCnt = s.leadinCnt := rfl
@[simp] theorem takeBit_timerOn (s : State) : (s.takeBit).timerOn = s.timerOn := rfl
@[simp] theorem takeBit_gie (s : State) : (s.takeBit).gie = s.gie := rfl
@[simp] theorem takeBit_mem (s : State) : (s.takeBit).mem = s.mem := rfl
@[simp] theorem takeBit_hostQ (s : State) : (s.takeBit).hostQ = s.hostQ := rfl
@[simp] theorem takeBit_envQ (s : State) : (s.takeBit).envQ = s.envQ := rfl
@[simp] theorem takeBit_turns (s : State) : (s.takeBit).turns = s.turns := rfl
@[simp] theorem takeBit_fairIn (s : State) : (s.takeBit).fairIn = s.fairIn := rfl
@[simp] theorem takeBit_freeCtr (s : State) : (s.takeBit).freeCtr = s.freeCtr := rfl

/-! ### dropByteWork -/

@[simp] theorem dropByteWork_params (s : State) : (s.dropByteWork).params = s.params := rfl
@[simp] theorem dropByteWork_drvSCL (s : State) : (s.dropByteWork).drvSCL = s.drvSCL := rfl
@[simp] theorem dropByteWork_drvSDA (s : State) : (s.dropByteWork).drvSDA = s.drvSDA := rfl
@[simp] theorem dropByteWork_drvRF (s : State) : (s.dropByteWork).drvRF = s.drvRF := rfl
@[simp] theorem dropByteWork_argByte (s : State) : (s.dropByteWork).argByte = s.argByte := rfl
@[simp] theorem dropByteWork_argPtr (s : State) : (s.dropByteWork).argPtr = s.argPtr := rfl
@[simp] theorem dropByteWork_argLen (s : State) : (s.dropByteWork).argLen = s.argLen := rfl
@[simp] theorem dropByteWork_sh (s : State) : (s.dropByteWork).sh = Config.freeByte s.freeCtr := rfl
@[simp] theorem dropByteWork_i (s : State) : (s.dropByteWork).i = Config.freeNibble s.freeCtr := rfl
@[simp] theorem dropByteWork_k (s : State) : (s.dropByteWork).k = s.k := rfl
@[simp] theorem dropByteWork_sample (s : State) : (s.dropByteWork).sample = levelOfBit (Config.freeBit s.freeCtr) := rfl
@[simp] theorem dropByteWork_resStatus (s : State) : (s.dropByteWork).resStatus = s.resStatus := rfl
@[simp] theorem dropByteWork_resAck (s : State) : (s.dropByteWork).resAck = s.resAck := rfl
@[simp] theorem dropByteWork_resByte (s : State) : (s.dropByteWork).resByte = s.resByte := rfl
@[simp] theorem dropByteWork_fgPc (s : State) : (s.dropByteWork).fgPc = s.fgPc := rfl
@[simp] theorem dropByteWork_rfState (s : State) : (s.dropByteWork).rfState = s.rfState := rfl
@[simp] theorem dropByteWork_txBuf (s : State) : (s.dropByteWork).txBuf = s.txBuf := rfl
@[simp] theorem dropByteWork_txLen (s : State) : (s.dropByteWork).txLen = s.txLen := rfl
@[simp] theorem dropByteWork_byteIdx (s : State) : (s.dropByteWork).byteIdx = s.byteIdx := rfl
@[simp] theorem dropByteWork_bitIdx (s : State) : (s.dropByteWork).bitIdx = s.bitIdx := rfl
@[simp] theorem dropByteWork_leadinCnt (s : State) : (s.dropByteWork).leadinCnt = s.leadinCnt := rfl
@[simp] theorem dropByteWork_timerOn (s : State) : (s.dropByteWork).timerOn = s.timerOn := rfl
@[simp] theorem dropByteWork_gie (s : State) : (s.dropByteWork).gie = s.gie := rfl
@[simp] theorem dropByteWork_mem (s : State) : (s.dropByteWork).mem = s.mem := rfl
@[simp] theorem dropByteWork_hostQ (s : State) : (s.dropByteWork).hostQ = s.hostQ := rfl
@[simp] theorem dropByteWork_envQ (s : State) : (s.dropByteWork).envQ = s.envQ := rfl
@[simp] theorem dropByteWork_turns (s : State) : (s.dropByteWork).turns = s.turns := rfl
@[simp] theorem dropByteWork_fairIn (s : State) : (s.dropByteWork).fairIn = s.fairIn := rfl
@[simp] theorem dropByteWork_freeCtr (s : State) : (s.dropByteWork).freeCtr = s.freeCtr + 1 := rfl

/-! ### dropBufferWork -/

@[simp] theorem dropBufferWork_params (s : State) : (s.dropBufferWork).params = s.params := rfl
@[simp] theorem dropBufferWork_drvSCL (s : State) : (s.dropBufferWork).drvSCL = s.drvSCL := rfl
@[simp] theorem dropBufferWork_drvSDA (s : State) : (s.dropBufferWork).drvSDA = s.drvSDA := rfl
@[simp] theorem dropBufferWork_drvRF (s : State) : (s.dropBufferWork).drvRF = s.drvRF := rfl
@[simp] theorem dropBufferWork_argByte (s : State) : (s.dropBufferWork).argByte = s.argByte := rfl
@[simp] theorem dropBufferWork_argPtr (s : State) : (s.dropBufferWork).argPtr = s.argPtr := rfl
@[simp] theorem dropBufferWork_argLen (s : State) : (s.dropBufferWork).argLen = s.argLen := rfl
@[simp] theorem dropBufferWork_sh (s : State) : (s.dropBufferWork).sh = Config.freeByte s.freeCtr := rfl
@[simp] theorem dropBufferWork_i (s : State) : (s.dropBufferWork).i = Config.freeNibble s.freeCtr := rfl
@[simp] theorem dropBufferWork_k (s : State) : (s.dropBufferWork).k = Config.freeNat s.freeCtr % 2 ^ s.params.lenBits := rfl
@[simp] theorem dropBufferWork_sample (s : State) : (s.dropBufferWork).sample = levelOfBit (Config.freeBit s.freeCtr) := rfl
@[simp] theorem dropBufferWork_resStatus (s : State) : (s.dropBufferWork).resStatus = s.resStatus := rfl
@[simp] theorem dropBufferWork_resAck (s : State) : (s.dropBufferWork).resAck = s.resAck := rfl
@[simp] theorem dropBufferWork_resByte (s : State) : (s.dropBufferWork).resByte = s.resByte := rfl
@[simp] theorem dropBufferWork_fgPc (s : State) : (s.dropBufferWork).fgPc = s.fgPc := rfl
@[simp] theorem dropBufferWork_rfState (s : State) : (s.dropBufferWork).rfState = s.rfState := rfl
@[simp] theorem dropBufferWork_txBuf (s : State) : (s.dropBufferWork).txBuf = s.txBuf := rfl
@[simp] theorem dropBufferWork_txLen (s : State) : (s.dropBufferWork).txLen = s.txLen := rfl
@[simp] theorem dropBufferWork_byteIdx (s : State) : (s.dropBufferWork).byteIdx = s.byteIdx := rfl
@[simp] theorem dropBufferWork_bitIdx (s : State) : (s.dropBufferWork).bitIdx = s.bitIdx := rfl
@[simp] theorem dropBufferWork_leadinCnt (s : State) : (s.dropBufferWork).leadinCnt = s.leadinCnt := rfl
@[simp] theorem dropBufferWork_timerOn (s : State) : (s.dropBufferWork).timerOn = s.timerOn := rfl
@[simp] theorem dropBufferWork_gie (s : State) : (s.dropBufferWork).gie = s.gie := rfl
@[simp] theorem dropBufferWork_mem (s : State) : (s.dropBufferWork).mem = s.mem := rfl
@[simp] theorem dropBufferWork_hostQ (s : State) : (s.dropBufferWork).hostQ = s.hostQ := rfl
@[simp] theorem dropBufferWork_envQ (s : State) : (s.dropBufferWork).envQ = s.envQ := rfl
@[simp] theorem dropBufferWork_turns (s : State) : (s.dropBufferWork).turns = s.turns := rfl
@[simp] theorem dropBufferWork_fairIn (s : State) : (s.dropBufferWork).fairIn = s.fairIn := rfl
@[simp] theorem dropBufferWork_freeCtr (s : State) : (s.dropBufferWork).freeCtr = s.freeCtr + 1 := rfl

/-! ### The pin primitives as drive-state updates -/

@[simp] theorem pinRelease_eq (s : State) (X : Line) : s.pinRelease X = s.setDrive X .Z := rfl
@[simp] theorem pinPullup_eq (s : State) (X : Line) : s.pinPullup X = s.setDrive X .PU := rfl
@[simp] theorem pinLow_eq (s : State) (X : Line) : s.pinLow X = s.setDrive X .D0 := rfl
@[simp] theorem drive_SCL (s : State) : s.drive .SCL = s.drvSCL := rfl
@[simp] theorem drive_SDA (s : State) : s.drive .SDA = s.drvSDA := rfl

end Sys2Proof.Machine
end

