-- ==== Sys2Proof/Laws/Step.lean ====
section
/-! SUPPORT. What each shared operation and each agent's step can do: one lemma per operation, for later proofs to cite. -/

namespace Sys2Proof.Machine

/-! ### Answers -/

@[simp] theorem andThen_next (s : State) (f : State → Result) : andThen (.next s) f = f s := rfl
@[simp] theorem andThen_fault (e : Fault) (f : State → Result) : andThen (.fault e) f = .fault e := rfl
@[simp] theorem andThen_refused (e : Refusal) (f : State → Result) : andThen (.refused e) f = .refused e := rfl
@[simp] theorem mapNext_next (s : State) (f : State → State) : mapNext (.next s) f = .next (f s) := rfl
@[simp] theorem mapNext_fault (e : Fault) (f : State → State) : mapNext (.fault e) f = .fault e := rfl
@[simp] theorem mapNext_refused (e : Refusal) (f : State → State) : mapNext (.refused e) f = .refused e := rfl

theorem andThen_eq_next {r : Result} {f : State → Result} {t : State} (h : andThen r f = .next t) :
    ∃ u, r = .next u ∧ f u = .next t := by
  cases r with
  | next u => exact ⟨u, rfl, h⟩
  | fault e => cases h
  | refused e => cases h

theorem mapNext_eq_next {r : Result} {f : State → State} {t : State} (h : mapNext r f = .next t) :
    ∃ u, r = .next u ∧ t = f u := by
  obtain ⟨u, hu, h⟩ := andThen_eq_next h
  exact ⟨u, hu, by cases h; rfl⟩

theorem mapNext_id {r : Result} {f : State → State} (h : ∀ s, f s = s) : mapNext r f = r := by
  cases r with
  | next s => simp [h]
  | fault e => rfl
  | refused e => rfl

@[simp] theorem iterate_zero (f : State → Result) (s : State) : iterate f 0 s = .next s := rfl

theorem iterate_succ (f : State → Result) (n : Nat) (s : State) :
    iterate f (n + 1) s = andThen (f s) (iterate f n) := rfl

theorem iterate_add (f : State → Result) (m n : Nat) (s : State) :
    iterate f (m + n) s = andThen (iterate f m s) (iterate f n) := by
  induction m generalizing s with
  | zero => simp
  | succ m ih =>
    rw [Nat.succ_add, iterate_succ, iterate_succ]
    cases f s with
    | next t => exact ih t
    | fault e => rfl
    | refused e => rfl

/-- A run of `m` steps that answers `t`, then `n` more from `t`. -/
theorem iterate_trans {f : State → Result} {m n : Nat} {s t : State} (h : iterate f m s = .next t) :
    iterate f (m + n) s = iterate f n t := by
  rw [iterate_add, h, andThen_next]

@[simp] theorem observe_zero {α : Type} (f : State → Result) (look : State → List α) (s : State) :
    observe f look 0 s = [] := rfl

theorem observe_succ_next {α : Type} {f : State → Result} {look : State → List α} {n : Nat} {s t : State}
    (h : f s = .next t) : observe f look (n + 1) s = look s ++ observe f look n t := by
  simp [observe, h]

/-- What is observed along `m` steps that answer `t`, then along `n` more from `t`. -/
theorem observe_add {α : Type} {f : State → Result} {look : State → List α} {m n : Nat} {s t : State}
    (h : iterate f m s = .next t) : observe f look (m + n) s = observe f look m s ++ observe f look n t := by
  induction m generalizing s with
  | zero => cases h; simp
  | succ m ih =>
    rw [iterate_succ] at h
    obtain ⟨u, hu, h⟩ := andThen_eq_next h
    rw [Nat.succ_add, observe_succ_next hu, observe_succ_next hu, ih h, List.append_assoc]

/-! ### Environment -/

/-- An answer of ENV uses up one entry of its list, or one free value, and changes nothing else. -/
theorem envAnswer_frame (s : State) :
    s.envAnswer.2 = { s with envQ := s.envAnswer.2.envQ, freeCtr := s.envAnswer.2.freeCtr } := by
  unfold State.envAnswer
  split <;> rfl

/-- A read of a pin changes at most ENV's list and the count of free values. -/
theorem pinRead_frame (s : State) (X : Line) :
    (s.pinRead X).2 = { s with envQ := (s.pinRead X).2.envQ, freeCtr := (s.pinRead X).2.freeCtr } := by
  unfold State.pinRead
  split
  · rfl
  · exact envAnswer_frame s
  · exact envAnswer_frame s

/-- A released line reads as ENV answers. -/
theorem pinRead_released {s : State} {X : Line} (h : s.drive X = .Z) : s.pinRead X = s.envAnswer := by
  simp [State.pinRead, h]

/-! ### Actions and foreground steps -/

/-- Everything an action can write. -/
theorem action_frame {a : Action} {s t : State} (h : a.run s = .next t) :
    t = { s with
      drvSCL := t.drvSCL
      drvSDA := t.drvSDA
      drvRF := t.drvRF
      sample := t.sample
      rfState := t.rfState
      txBuf := t.txBuf
      txLen := t.txLen
      timerOn := t.timerOn
      mem := t.mem
      envQ := t.envQ
      freeCtr := t.freeCtr } := by
  cases a with
  | release X => cases X <;> cases h <;> rfl
  | pullup X => cases X <;> cases h <;> rfl
  | low X => cases X <;> cases h <;> rfl
  | delay d => cases h; rfl
  | sampleSda => cases h; rw [pinRead_frame s .SDA]
  | sda b =>
    simp only [Action.run] at h
    split at h
    · next v _ => cases v <;> cases h <;> rfl
    · cases h
  | storeByte => obtain ⟨-, rfl⟩ := State.memWrite_next h; rfl
  | rfSet v => cases h; rfl
  | rfWrite v => cases h; rfl
  | rfTest => cases h; rfl
  | writeTxBuf => cases h; rfl
  | writeTxLen => cases h; rfl
  | timerStart => cases h; rfl

/-- What one foreground step can be: the issue at `READY`, or the micro-step `fg_pc` names with what follows it. -/
theorem foreground_next {op : Op} {p : List Action} {issue : State → State} {after : Nat → State → State}
    {s t : State} (h : foreground op p issue after s = .next t) :
    (s.fgPc = .ready ∧ t = issue s) ∨
      ∃ k a u, s.fgPc = .running op k ∧ p[k]? = some a ∧ a.run s = .next u ∧ t = after k u := by
  unfold foreground at h
  split at h
  · next hpc => exact .inl ⟨hpc, by cases h; rfl⟩
  · next op' k hpc =>
    split at h
    · next hop =>
      split at h
      · next a ha =>
        obtain ⟨u, hu, rfl⟩ := mapNext_eq_next h
        exact .inr ⟨k, a, u, by rw [hpc, hop], ha, hu, rfl⟩
      · cases h
    · cases h

theorem foreground_ready {op : Op} {p : List Action} {issue : State → State} {after : Nat → State → State} {s : State}
    (h : s.fgPc = .ready) : foreground op p issue after s = .next (issue s) := by
  simp [foreground, h]

theorem foreground_running {op : Op} {p : List Action} {issue : State → State} {after : Nat → State → State}
    {s : State} {k : Nat} {a : Action} (h : s.fgPc = .running op k) (ha : p[k]? = some a) :
    foreground op p issue after s = mapNext (a.run s) (after k) := by
  simp [foreground, h, ha]

/-! ### The tick -/

/-- Everything the tick handler can write (R167 point 3). -/
theorem tickHandler_frame {s t : State} (h : tickHandler s = .next t) :
    t = { s with
      rfState := t.rfState
      byteIdx := t.byteIdx
      bitIdx := t.bitIdx
      leadinCnt := t.leadinCnt
      drvRF := t.drvRF } := by
  unfold tickHandler at h
  split at h
  · cases h; rfl
  · cases h; rfl
  · cases h; rfl
  · unfold tickBitPhase1 at h
    split at h
    · cases h
    · split at h
      · cases h
      · cases h; rfl
  · cases h; rfl
  · cases h; rfl

/-- A timer period is a run of the handler where a tick is possible, and nothing where it is not (R163, R164). -/
theorem tickStep_eq (s : State) : tickStep s = if s.tickPossible then tickHandler s else .next s := by
  unfold tickStep takeTick
  split
  · exact mapNext_id (fun _ => rfl)
  · rfl

/-! ### Who moves -/

/-- A fair round gives the turn to the tick and the next one to the foreground. -/
theorem fairChoice_due {s : State} (h : s.fairBound = 0) : s.fairChoice = s.fairRound := by
  simp [State.fairChoice, h]

/-- Until the fair round is due, a choice brings it nearer by one and leaves the list of turns. -/
theorem fairChoice_waits {s : State} (h : s.fairBound ≠ 0) : s.fairChoice = s.freeChoice := by
  simp [State.fairChoice, h]

@[simp] theorem freeChoice_turns (s : State) : s.freeChoice.2.turns = s.turns := rfl
@[simp] theorem freeChoice_fairBound (s : State) : s.freeChoice.2.fairBound = s.fairBound - 1 := rfl
@[simp] theorem fairRound_turn (s : State) : s.fairRound.1 = some .tick := rfl
@[simp] theorem fairRound_turns (s : State) : s.fairRound.2.turns = [.fg] := rfl

/-- A choice of who moves changes only the list of turns, the wait for the fair round and the count of free values. -/
theorem choose_frame (s : State) :
    s.choose.2 =
      { s with turns := s.choose.2.turns, fairIn := s.choose.2.fairIn, freeCtr := s.choose.2.freeCtr } := by
  unfold State.choose
  split
  · rfl
  · split
    · rfl
    · rfl
    · unfold State.fairChoice
      split <;> rfl

/-- An agent that can move moves in the step where it is the only one. -/
theorem choose_only {s : State} {a : Agent} (ht : s.turns = []) (hm : s.movers = [a]) : s.choose = (some a, s) := by
  simp [State.choose, ht, hm]

/-- Where several agents can move the choice is a fair one. -/
theorem choose_several {s : State} {a b : Agent} {rest : List Agent} (ht : s.turns = [])
    (hm : s.movers = a :: b :: rest) : s.choose = s.fairChoice := by
  simp [State.choose, ht, hm]

theorem choose_turn {s : State} {a : Agent} {later : List Agent} (h : s.turns = a :: later) :
    s.choose = (some a, { s with turns := later }) := by
  simp [State.choose, h]

/-- What a step can be: nobody moves, or one agent does, from the state with the choice made. -/
theorem step_next {s t : State} (h : step s = .next t) :
    (s.choose.1 = none ∧ t = s.choose.2) ∨ ∃ a, s.choose.1 = some a ∧ agentStep a s.choose.2 = .next t := by
  unfold step moveStep at h
  split at h
  · next hc => exact .inl ⟨hc, by cases h; rfl⟩
  · next a hc => exact .inr ⟨a, hc, h⟩

/-- What a HOST step can be. -/
theorem hostStep_next {s t : State} (h : hostStep s = .next t) :
    t = s ∨ ∃ a acts, s.hostQ = a :: acts ∧ s.hostCanMove = true ∧ a.run { s with hostQ := acts } = .next t := by
  unfold hostStep at h
  split at h
  · exact .inl (by cases h; rfl)
  · next a acts hq =>
    split at h
    · next hc => exact .inr ⟨a, acts, hq, hc, h⟩
    · exact .inl (by cases h; rfl)

/-- A host act that waits runs only at `READY`. -/
theorem hostCanMove_waits {s : State} {a : HostAct} {acts : List HostAct} (hq : s.hostQ = a :: acts)
    (hc : s.hostCanMove = true) (hw : a.waits = true) : s.fgPc = .ready := by
  simpa [State.hostCanMove, hq, hw] using hc

/-- What an FG step can be: nothing at `READY`, else `exec` of the operation in progress. -/
theorem fgStep_running {s : State} {op : Op} {k : Nat} (h : s.fgPc = .running op k) :
    fgStep s = exec (instrOf op s.argByte) s := by
  simp [fgStep, h]

theorem fgStep_ready {s : State} (h : s.fgPc = .ready) : fgStep s = .next s := by
  simp [fgStep, h]

end Sys2Proof.Machine
end

