-- ==== Sys2Proof/Laws/Exec.lean ====
section
/-! SUPPORT. What one `exec` can be, and what follows a micro-step may write: one lemma per operation, for later proofs to cite. -/

namespace Sys2Proof.Machine

/-- Every meaning is one foreground step of its operation's program. -/
theorem exec_eq_foreground (i : Instr) (s : State) :
    exec i s = foreground (opOf i) (programOf (opOf i)) (issued i) (following (opOf i)) s := by
  cases i <;> rfl

theorem exec_ready {i : Instr} {s : State} (h : s.fgPc = .ready) : exec i s = .next (issued i s) := by
  rw [exec_eq_foreground, foreground_ready h]

theorem exec_running {i : Instr} {s : State} {k : Nat} {a : Action} (h : s.fgPc = .running (opOf i) k)
    (ha : (programOf (opOf i))[k]? = some a) : exec i s = mapNext (a.run s) (following (opOf i) k) := by
  rw [exec_eq_foreground, foreground_running h ha]

/-- One `exec` that answers a next state was an issue at `READY`, or a micro-step of the operation. -/
theorem exec_next {i : Instr} {s t : State} (h : exec i s = .next t) :
    (s.fgPc = .ready ∧ t = issued i s) ∨
      ∃ k a u, s.fgPc = .running (opOf i) k ∧ (programOf (opOf i))[k]? = some a ∧ a.run s = .next u ∧
        t = following (opOf i) k u := by
  rw [exec_eq_foreground] at h
  exact foreground_next h

theorem opOf_instrOf (op : Op) (b : Byte) : opOf (instrOf op b) = op := by cases op <;> rfl

/-- An index that names a micro-step lies inside the program. -/
theorem microStep_lt {op : Op} {k : Nat} {a : Action} (h : (programOf op)[k]? = some a) :
    k < (programOf op).length := by
  obtain ⟨hk, -⟩ := List.getElem?_eq_some_iff.mp h
  exact hk

/-! ### What follows a micro-step -/

theorem straight_frame (op : Op) (p : List Action) (k : Nat) (s : State) :
    straight op p k s =
      { s with resStatus := (straight op p k s).resStatus, fgPc := (straight op p k s).fgPc } := by
  unfold straight
  split <;> rfl

theorem busWriteByteAfter_frame (k : Nat) (s : State) :
    busWriteByteAfter k s = { s with
      sh := (busWriteByteAfter k s).sh
      i := (busWriteByteAfter k s).i
      sample := (busWriteByteAfter k s).sample
      resStatus := (busWriteByteAfter k s).resStatus
      resAck := (busWriteByteAfter k s).resAck
      fgPc := (busWriteByteAfter k s).fgPc
      freeCtr := (busWriteByteAfter k s).freeCtr } := by
  unfold busWriteByteAfter
  split
  · rfl
  · split <;> rfl
  · rfl
  · rfl

theorem busReadByteAfter_frame (k : Nat) (s : State) :
    busReadByteAfter k s = { s with
      sh := (busReadByteAfter k s).sh
      i := (busReadByteAfter k s).i
      sample := (busReadByteAfter k s).sample
      resStatus := (busReadByteAfter k s).resStatus
      resByte := (busReadByteAfter k s).resByte
      fgPc := (busReadByteAfter k s).fgPc
      freeCtr := (busReadByteAfter k s).freeCtr } := by
  unfold busReadByteAfter
  split
  · rfl
  · split <;> rfl
  · rfl
  · rfl

theorem busReadBufferAfter_frame (k : Nat) (s : State) :
    busReadBufferAfter k s = { s with
      sh := (busReadBufferAfter k s).sh
      i := (busReadBufferAfter k s).i
      k := (busReadBufferAfter k s).k
      sample := (busReadBufferAfter k s).sample
      resStatus := (busReadBufferAfter k s).resStatus
      fgPc := (busReadBufferAfter k s).fgPc
      freeCtr := (busReadBufferAfter k s).freeCtr } := by
  unfold busReadBufferAfter
  split
  · rfl
  · split <;> rfl
  · split <;> rfl
  · rfl
  · rfl

theorem rfTransmitBufferAfter_frame (k : Nat) (s : State) :
    rfTransmitBufferAfter k s = { s with
      resStatus := (rfTransmitBufferAfter k s).resStatus
      fgPc := (rfTransmitBufferAfter k s).fgPc } := by
  unfold rfTransmitBufferAfter
  split
  · split <;> rfl
  · split <;> rfl
  · rfl

/-- What follows a micro-step writes no pin, no operand, no radio state, no memory and no input. -/
theorem following_frame (op : Op) (k : Nat) (s : State) :
    following op k s = { s with
      sh := (following op k s).sh
      i := (following op k s).i
      k := (following op k s).k
      sample := (following op k s).sample
      resStatus := (following op k s).resStatus
      resAck := (following op k s).resAck
      resByte := (following op k s).resByte
      fgPc := (following op k s).fgPc
      freeCtr := (following op k s).freeCtr } := by
  cases op with
  | busInit => simp only [following, straight]; split <;> rfl
  | busStart => simp only [following, straight]; split <;> rfl
  | busStop => simp only [following, straight]; split <;> rfl
  | busWriteByte => simp only [following]; unfold busWriteByteAfter; split <;> first | rfl | (split <;> rfl)
  | busReadByte => simp only [following]; unfold busReadByteAfter; split <;> first | rfl | (split <;> rfl)
  | busReadBuffer => simp only [following]; unfold busReadBufferAfter; split <;> first | rfl | (split <;> rfl)
  | rfInit => simp only [following, straight]; split <;> rfl
  | rfTransmitBuffer => simp only [following]; unfold rfTransmitBufferAfter; split <;> first | rfl | (split <;> rfl)
  | rfTransmitPacket => rfl

/-- The issue of an operation writes `ARG_BYTE`, `RES_STATUS` and `fg_pc` at most (R68, R71, R76). -/
theorem issued_frame (i : Instr) (s : State) :
    issued i s = { s with
      argByte := (issued i s).argByte
      resStatus := (issued i s).resStatus
      fgPc := (issued i s).fgPc } := by
  cases i with
  | busInit => rfl
  | busStart => rfl
  | busStop => rfl
  | busWriteByte b => rfl
  | busReadByte => rfl
  | busReadBuffer => simp only [issued]; unfold State.acceptReadBuffer; split <;> first | rfl | (split <;> rfl)
  | rfInit => rfl
  | rfTransmitBuffer => simp only [issued]; unfold State.acceptTransmit; split <;> first | rfl | (split <;> rfl)
  | rfTransmitPacket => rfl

/-- Everything a foreground step can write: never the parameters, `ARG_PTR`, `ARG_LEN`, the counters of a transmission,
`GIE`, the host's list or the turns. -/
theorem exec_frame {i : Instr} {s t : State} (h : exec i s = .next t) :
    t = { s with
      drvSCL := t.drvSCL
      drvSDA := t.drvSDA
      drvRF := t.drvRF
      argByte := t.argByte
      sh := t.sh
      i := t.i
      k := t.k
      sample := t.sample
      resStatus := t.resStatus
      resAck := t.resAck
      resByte := t.resByte
      fgPc := t.fgPc
      rfState := t.rfState
      txBuf := t.txBuf
      txLen := t.txLen
      timerOn := t.timerOn
      mem := t.mem
      envQ := t.envQ
      freeCtr := t.freeCtr } := by
  rcases exec_next h with ⟨-, rfl⟩ | ⟨k, a, u, -, -, hu, rfl⟩
  · have hi := issued_frame i s
    generalize issued i s = t at hi
    rw [hi]
  · have hf := following_frame (opOf i) k u
    have ha := action_frame hu
    generalize following (opOf i) k u = t at hf
    rw [hf, ha]

end Sys2Proof.Machine
end

