-- ==== Sys2Proof/Laws/PerInstr.lean ====
section
/-! SUPPORT. One statement per instruction: the fields of its command word are where rule R68 puts them. -/

namespace Sys2Proof.Laws.Encoding

/-- The three fields of rule R68, read back from the word of an operation. -/
def Statement (i : Instr) : Prop :=
  opField (encode i) = opNumber i ∧ zeroField (encode i) = 0 ∧ dataField (encode i) = dataOf i

theorem busInit : Statement .busInit := by unfold Statement; decide

theorem busStart : Statement .busStart := by unfold Statement; decide

theorem busStop : Statement .busStop := by unfold Statement; decide

theorem busWriteByte (data : Byte) : Statement (.busWriteByte data) := by
  revert data
  unfold Statement
  decide

theorem busReadByte : Statement .busReadByte := by unfold Statement; decide

theorem busReadBuffer : Statement .busReadBuffer := by unfold Statement; decide

theorem rfInit : Statement .rfInit := by unfold Statement; decide

theorem rfTransmitBuffer : Statement .rfTransmitBuffer := by unfold Statement; decide

theorem rfTransmitPacket : Statement .rfTransmitPacket := by unfold Statement; decide

end Sys2Proof.Laws.Encoding
end

