-- ==== Sys2Proof/Tests/Slice0.lean ====
section
/-! SUPPORT. Tests: words decoded, ill-formed terms refused, one step of each instruction, and a witness for the hypotheses of
every statement. Expected results are the spec's own (95_test_vectors.md, by the id in each docstring). -/

namespace Sys2Proof.Tests

open Sys2Proof Sys2Proof.Machine

/-! ### Words written out from rule R69 (V50 to V59b) -/

theorem test_decode_bus_init : decode 0b0001000000000000 = .ok .busInit := by decide
theorem test_decode_bus_start : decode 0b0010000000000000 = .ok .busStart := by decide
theorem test_decode_bus_stop : decode 0b0011000000000000 = .ok .busStop := by decide
theorem test_decode_bus_write_byte : decode 0b0100000011101100 = .ok (.busWriteByte 0xEC) := by decide
theorem test_decode_bus_write_byte_ends :
    decode 0b0100000000000000 = .ok (.busWriteByte 0x00) ∧ decode 0b0100000011111111 = .ok (.busWriteByte 0xFF) := by
  decide
theorem test_decode_bus_read_byte : decode 0b0101000000000000 = .ok .busReadByte := by decide
theorem test_decode_bus_read_buffer : decode 0b0110000000000000 = .ok .busReadBuffer := by decide
theorem test_decode_rf_init : decode 0b1000000000000000 = .ok .rfInit := by decide
theorem test_decode_rf_transmit_buffer : decode 0b1001000000000000 = .ok .rfTransmitBuffer := by decide
theorem test_decode_rf_transmit_packet : decode 0b1010000000000000 = .ok .rfTransmitPacket := by decide
theorem test_decode_table_word : decodeTableWord 16 0x40EC = some (.busWriteByte 0xEC) := by decide

/-- V59: the seven reserved operation numbers. -/
theorem test_refuses_reserved_op :
    ([0x0000, 0x7000, 0xB000, 0xC000, 0xD000, 0xE000, 0xF000] : List CommandWord).map decode =
      [.error (.reservedOp 0x0), .error (.reservedOp 0x7), .error (.reservedOp 0xB), .error (.reservedOp 0xC),
       .error (.reservedOp 0xD), .error (.reservedOp 0xE), .error (.reservedOp 0xF)] := by decide

/-- V59a: data in a word of format N or M. -/
theorem test_refuses_data :
    ([0x1001, 0x2080, 0x50FF, 0x60FF, 0x9001] : List CommandWord).map decode =
      [.error (.dataFieldSet 0x01), .error (.dataFieldSet 0x80), .error (.dataFieldSet 0xFF),
       .error (.dataFieldSet 0xFF), .error (.dataFieldSet 0x01)] := by decide

/-- V59b: a `zero` field that is not zero. -/
theorem test_refuses_zero_field :
    ([0x1100, 0x4100, 0x4FEC, 0x9800] : List CommandWord).map decode =
      [.error (.zeroFieldSet 1), .error (.zeroFieldSet 1), .error (.zeroFieldSet 0xF), .error (.zeroFieldSet 8)] := by
  decide

/-! ### Ill-formed terms (one for each check of WellFormed.lean and Assembly.lean) -/

theorem test_params_default : Params.default.wf = true := by decide
theorem test_params_addr_bits : ({ Params.default with addrBits := 0 } : Params).wf = false := by decide
theorem test_params_len_bits : ({ Params.default with lenBits := 0 } : Params).wf = false := by decide
theorem test_params_lead_in : ({ Params.default with leadInTicks := 0 } : Params).wf = false := by decide
theorem test_params_t_half : ({ Params.default with tHalf := 0 } : Params).wf = false := by decide
theorem test_params_t_low : ({ Params.default with tLow := 0 } : Params).wf = false := by decide
theorem test_params_bit_rate : ({ Params.default with bitRate := 0 } : Params).wf = false := by decide

/-- V44: 0xFFFF + 2 passes the top of a 16-bit space; 0xFFFF + 1 does not. -/
theorem test_buffer_fits : Params.default.bufferFits 0xFFFF 2 = false ∧ Params.default.bufferFits 0xFFFF 1 = true := by
  decide
theorem test_operands_fit_ptr : Params.default.operandsFit 0x10000 1 = false := by decide
theorem test_operands_fit_len : Params.default.operandsFit 0 256 = false := by decide
theorem test_device_address : deviceAddressOk 0x80 = false ∧ deviceAddressOk 0x7F = true := by decide
theorem test_line_bad_address : (AsmLine.regWrite 0x80 0xF4 0x27).assemble Params.default = none := by decide
theorem test_line_bad_length : (AsmLine.busReadBuffer 0x100 256).assemble Params.default = none := by decide

/-- P1: `REG_WRITE 0x76, 0xF4, 0x27` as command words. -/
theorem test_reg_write : (AsmLine.regWrite 0x76 0xF4 0x27).assemble Params.default =
    some [.issue 0x2000, .issue 0x40EC, .issue 0x40F4, .issue 0x4027, .issue 0x3000] := by decide

/-- P2: `REG_READ 0x76, 0xF7, 0x0100, 3`. -/
theorem test_reg_read : (AsmLine.regRead 0x76 0xF7 0x0100 3).assemble Params.default =
    some [.issue 0x2000, .issue 0x40EC, .issue 0x40F7, .issue 0x2000, .issue 0x40ED, .writePtr 0x0100, .writeLen 3,
      .issue 0x6000, .issue 0x3000] := by decide

/-! ### One step of each instruction -/

/-- A state in micro-step `k` of an operation, both lines driven low, two bytes to read at 0x0100. -/
def running (op : Op) (k : Nat) : State :=
  { State.reset with drvSCL := .D0, drvSDA := .D0, argPtr := 0x0100, argLen := 2, fgPc := .running op k }

/-- A state at `READY` with a buffer of two bytes at 0x0100. -/
def ready : State := { State.reset with argPtr := 0x0100, argLen := 2 }

/-- A field of the next state, if there is one. -/
def field {α : Type} (f : State → α) (r : Result) : Option α := (nextOf r).map f

/-- V10a: the last micro-step releases SDA and completes with `OK`. -/
theorem test_bus_init_last : field (fun t => (t.drvSDA, t.fgPc)) (exec .busInit (running .busInit 1)) =
    some (.Z, .ready) := by decide

/-- V11: `start` sets SDA to the pull-up first, and drives it low at its seventh micro-step. -/
theorem test_bus_start_pullup : field (fun t => (t.drvSDA, t.fgPc)) (exec .busStart (running .busStart 0)) =
    some (.PU, .running .busStart 1) := by decide
theorem test_bus_start_low : field (fun t => t.drvSDA) (exec .busStart { running .busStart 6 with drvSDA := .Z }) =
    some .D0 := by decide

/-- V11c: SDA rises in the fifth micro-step. -/
theorem test_bus_stop_rises : field (fun t => (t.drvSDA, t.fgPc)) (exec .busStop (running .busStop 4)) =
    some (.Z, .running .busStop 5) := by decide

/-- V18: bit 7 of 0x80 is a 1, sent by releasing SDA. -/
theorem test_write_first_bit : field (fun t => t.drvSDA)
    (exec (.busWriteByte 0x80) { running .busWriteByte 1 with sh := 0x80, i := 7 }) = some .Z := by decide

/-- V17: a sampled `H` is `RES_ACK = 1` with status `OK`. -/
theorem test_write_nack : field (fun t => (t.resAck, t.resStatus, t.fgPc))
    (exec (.busWriteByte 0xEC) { running .busWriteByte 12 with sample := .H, resStatus := 2 }) =
      some (1, 0, .ready) := by decide

/-- V20: the second of the samples H L H L L H L H, taken into the byte and counted. -/
theorem test_read_takes_bit : field (fun t => (t.sh, t.i, t.fgPc))
    (exec .busReadByte { running .busReadByte 7 with sh := 1, i := 6, sample := .L }) =
      some (2, 5, .running .busReadByte 2) := by decide

/-- V20: the byte is the result. -/
theorem test_read_result : field (fun t => (t.resByte, t.resStatus, t.fgPc))
    (exec .busReadByte { running .busReadByte 12 with sh := 0xA5 }) = some (0xA5, 0, .ready) := by decide

/-- V26: the second byte is stored at `ptr + 1`. -/
theorem test_read_buffer_store : field (fun t => t.mem)
    (exec .busReadBuffer { running .busReadBuffer 8 with sh := 0x34, k := 1, mem := [(0x0100, 0x12)] }) =
      some [(0x0100, 0x12), (0x0101, 0x34)] := by decide

/-- V26: the ninth bit is an acknowledgement for the first byte of two, not for the second. -/
theorem test_read_buffer_ack :
    field (fun t => t.drvSDA) (exec .busReadBuffer { running .busReadBuffer 9 with drvSDA := .Z }) = some .D0 ∧
      field (fun t => t.drvSDA) (exec .busReadBuffer { running .busReadBuffer 9 with drvSDA := .D0, k := 1 }) =
        some .Z := by decide

/-- V43: the timer goes on last. -/
theorem test_rf_init_last : field (fun t => (t.timerOn, t.fgPc)) (exec .rfInit (running .rfInit 2)) =
    some (true, .ready) := by decide

/-- V40: `BUSY` at m0 with a transmission in flight. -/
theorem test_transmit_busy : field (fun t => (t.resStatus, t.txBuf, t.fgPc))
    (exec .rfTransmitBuffer { running .rfTransmitBuffer 0 with rfState := .BIT_PHASE1, txBuf := 0x0200 }) =
      some (1, 0x0200, .ready) := by decide

/-- V44: past the top of the address space. -/
theorem test_transmit_past_top : field (fun t => (t.resStatus, t.fgPc))
    (exec .rfTransmitBuffer { ready with argPtr := 0xFFFF }) = some (2, .ready) := by decide

/-- V42. -/
theorem test_transmit_packet : field (fun t => (t.resStatus, t.fgPc)) (exec .rfTransmitPacket ready) =
    some (2, .ready) := by decide

/-! ### Single ticks (V37 to V39e) -/

/-- A transmission of two bytes in a phase. -/
def inPhase (r : RfState) : State :=
  { State.reset with rfState := r, txBuf := 0x0200, txLen := 2, mem := [(0x0200, 0x01)], drvRF := .D0,
                     fgPc := .running .rfTransmitBuffer 4, argPtr := 0x0200, argLen := 2, timerOn := true, gie := true,
                     leadinCnt := 20 }

/-- V37. -/
theorem test_tick_start : field (fun t => (t.rfState, t.drvRF, t.leadinCnt)) (tickHandler (inPhase .START)) =
    some (.LEAD_IN, .Z, 0) := by decide

/-- V38, V38a. -/
theorem test_tick_lead_in :
    field (fun t => t.rfState) (tickHandler { inPhase .LEAD_IN with leadinCnt := 18 }) = some .LEAD_IN ∧
      field (fun t => t.rfState) (tickHandler { inPhase .LEAD_IN with leadinCnt := 19 }) = some .BIT_PHASE1 := by decide

/-- V39, V39a. -/
theorem test_tick_bit_phase1 :
    field (fun t => t.drvRF) (tickHandler { inPhase .BIT_PHASE1 with bitIdx := 7 }) = some .D0 ∧
      field (fun t => t.drvRF) (tickHandler { inPhase .BIT_PHASE1 with bitIdx := 0 }) = some .Z := by decide

/-- V39c, V39d. -/
theorem test_tick_bit_phase2 :
    field (fun t => (t.rfState, t.bitIdx, t.byteIdx)) (tickHandler { inPhase .BIT_PHASE2 with bitIdx := 7 }) =
        some (.BIT_PHASE1, 0, 1) ∧
      field (fun t => (t.rfState, t.bitIdx, t.byteIdx))
        (tickHandler { inPhase .BIT_PHASE2 with bitIdx := 7, byteIdx := 1 }) = some (.END, 0, 2) := by decide

/-- V39e. -/
theorem test_tick_end : field (fun t => (t.rfState, t.drvRF)) (tickHandler { inPhase .END with drvRF := .Z }) =
    some (.IDLE, .D0) := by decide

/-! ### Placed words -/

theorem test_placed_word_runs : field (fun t => t.fgPc) (step (State.reset.withFetchWord 16 0x2000)) =
    some (.running .busStart 0) := by decide

theorem test_placed_illegal_word : field (fun t => (t.resStatus, t.fgPc)) (step (State.reset.withFetchWord 16 0x7000)) =
    some (2, .ready) := by decide

/-! ### Witnesses: states that meet the hypotheses of the statements, each clause at a boundary of its range -/

/-- BusInitReleasesBothLines, BusStartRunsItsProgram, BusStopRunsItsProgram, BusWriteByteSendsAndReportsAck,
BusReadByteReturnsTheSampledByte, WrittenBitsShowMsbFirst, RfInitSetsTheTransmitterUp, RfTransmitPacketIsRefused,
PlacedWordRunsNext: READY, and every instruction is well formed. -/
theorem witness_ready : State.reset.fgPc = .ready ∧ WellFormed (.busWriteByte 0xFF) = true := by decide

/-- StartThenStopIsOneOfEach, StartAndStopConditionsFromEachRestState: the idle rest state. -/
theorem witness_idle_lines : State.reset.fgPc = .ready ∧ State.reset.drvSCL = .Z ∧ State.reset.drvSDA = .Z := by decide
theorem witness_rest_idle : State.reset.linesAtRest := by unfold State.linesAtRest; decide
theorem witness_rest_started : ({ State.reset with drvSCL := .D0, drvSDA := .D0 } : State).linesAtRest := by
  unfold State.linesAtRest; decide
theorem witness_rest_held : ({ State.reset with drvSCL := .D0, drvSDA := .Z } : State).linesAtRest := by
  unfold State.linesAtRest; decide

/-- BusReadBufferStoresTheBytesInOrder, ReadBufferAcknowledgesAllButTheLast, RfTransmitBufferArmsAndWaits,
OperationsEndOnTheirFixedCount, OperationsContainTheirDelays: the shortest buffer, and one that ends at the top. -/
theorem witness_buffer :
    (let s := { State.reset with argPtr := 0, argLen := 1 }
     s.fgPc = .ready ∧ 1 ≤ s.argLen ∧ s.argPtr + s.argLen ≤ 2 ^ s.params.addrBits ∧ s.rfState = .IDLE) ∧
    (let s := { State.reset with argPtr := 0xFFFF, argLen := 1 }
     s.fgPc = .ready ∧ 1 ≤ s.argLen ∧ s.argPtr + s.argLen ≤ 2 ^ s.params.addrBits ∧ s.rfState = .IDLE) := by decide

/-- BusReadBufferEmptyOrPastTheTop, RfTransmitBufferTurnedAway: each clause. -/
theorem witness_empty_buffer : State.reset.fgPc = .ready ∧ State.reset.argLen = 0 := by decide
theorem witness_past_the_top :
    (let s := { State.reset with argPtr := 0xFFFF, argLen := 2 }
     s.fgPc = .ready ∧ 1 ≤ s.argLen ∧ 2 ^ s.params.addrBits < s.argPtr + s.argLen) := by decide
theorem witness_busy :
    (let s := { running .rfTransmitBuffer 0 with rfState := .END }
     s.fgPc = .running .rfTransmitBuffer 0 ∧ s.rfState ≠ .IDLE) := by decide

/-- OperationsEndOnTheirFixedCount: counts at both ends of their range. -/
theorem witness_micro_steps : microSteps .busReadBuffer 0 = some 0 ∧ microSteps .busReadBuffer 1 = some 56 ∧
    microSteps (.busWriteByte 0) 0 = some 48 ∧ (1 ≤ 1 ∧ 1 ≤ 48) ∧ (1 ≤ 48 ∧ 48 ≤ 48) := by decide

/-- StoredBytesReadBackInOrder: a well formed memory, an address on each side of the stored bytes. -/
theorem witness_memory : Memory.wf [(0x00FF, 1), (0x0102, 2)] = true ∧ (0x00FF < 0x0100 ∨ 0x0100 + 2 ≤ 0x00FF) ∧
    (0x0102 < 0x0100 ∨ 0x0100 + 2 ≤ 0x0102) := by decide

/-- StepIssuesTheDecodedInstruction: both clauses. -/
theorem witness_issue :
    (let s := { State.reset with hostQ := [.issue 0x1000], turns := [.host] }
     s.fgPc = .ready ∧ s.hostQ = .issue 0x1000 :: [] ∧ decode 0x1000 = .ok .busInit ∧ s.turns = .host :: []) ∧
    (let s := { State.reset with hostQ := [.issue 0x40FF] }
     s.fgPc = .ready ∧ s.hostQ = .issue 0x40FF :: [] ∧ decode 0x40FF = .ok (.busWriteByte 0xFF) ∧ s.turns = [] ∧
       s.tickPossible = false) := by decide

/-- StepRunsTheOperationInProgress. -/
theorem witness_running :
    (let s := { running .busWriteByte 12 with turns := [.fg] }
     s.fgPc = .running .busWriteByte 12 ∧ s.turns = .fg :: []) := by decide

/-- IllegalWordIsRefused. -/
theorem witness_illegal :
    (let s := { State.reset with hostQ := [.issue 0xFFFF], turns := [.host] }
     s.fgPc = .ready ∧ s.hostQ = .issue 0xFFFF :: [] ∧ s.turns = .host :: [] ∧
       decode 0xFFFF = .error (.reservedOp 0xF)) := by decide

/-- A state in which the host has one act to do and the turn. -/
def acting (s : State) (a : HostAct) : State := { s with hostQ := [a], turns := [.host] }

/-- IssueWaitsForReady: every act, at READY and inside an operation, with values at and past the top of their registers. -/
theorem witness_host_acts :
    (∀ a ∈ [HostAct.issue 0x1000, .writePtr 0xFFFF, .writeLen 0x100, .setGie true, .store 0x10000 0xFF],
      (acting (running .busStop 0) a).hostQ = a :: [] ∧ (acting (running .busStop 0) a).turns = .host :: [] ∧
        (acting (running .busStop 0) a).fgPc ≠ .ready ∧ (acting (running .busStop 0) a).mem.wf = true ∧
        (acting ready a).hostQ = a :: [] ∧ (acting ready a).turns = .host :: [] ∧ (acting ready a).fgPc = .ready) ∧
      0x0001 ≠ 0x10000 % 2 ^ ready.params.addrBits := by decide

/-- Operand writes and stores keep the bits that fit (log entry 3). -/
theorem test_host_write_len : field (fun t => (t.argLen, t.argPtr)) (step (acting ready (.writeLen 0x103))) =
    some (3, 0x0100) := by decide
theorem test_host_store : field (fun t => t.mem) (step (acting (running .busStop 0) (.store 0x0100 0x5A))) =
    some [(0x0100, 0x5A)] := by decide

/-- A fair round that is due: the tick, then the foreground (R165). -/
theorem test_fair_round : field (fun t => (t.rfState, t.turns, t.fairIn))
    (step { inPhase .START with fairIn := some 0 }) = some (.LEAD_IN, [.fg], none) := by decide

/-- TicksRunExactlyWhenEnabled, WaitWithoutTicksNeverEnds: the clauses about ticks that eventually come, of a state that
meets the invariant (witness_invariant) and of a host that still has an act. -/
theorem witness_fair :
    (let s := { inPhase .BIT_PHASE2 with turns := [.fg], hostQ := [.setGie true] }
     s.timerOn = true ∧ s.gie = true ∧ HostAct.setGie false ∉ s.hostQ ∧ s.fgPc = .running .rfTransmitBuffer 4) := by
  decide

/-- PinReadAsksTheEnvironment: both clauses. -/
theorem witness_pin_read : (running .busStart 0).drive .SDA = .D0 ∧ State.reset.drive .SCL ≠ .D0 ∧
    ({ State.reset with envQ := [.L] } : State).envQ = .L :: [] := by decide

/-- RfTransmitBufferArmsAndWaits: the wait, both clauses. -/
theorem witness_wait : (inPhase .START).fgPc = .running .rfTransmitBuffer 4 ∧ (inPhase .START).rfState ≠ .IDLE ∧
    (inPhase .IDLE).fgPc = .running .rfTransmitBuffer 4 ∧ (inPhase .IDLE).rfState = .IDLE := by decide

/-- One byte at the top of memory, armed, with N = 1 and a list of turns. -/
def armed (turns : List Agent) : State :=
  { inPhase .START with params := { Params.default with leadInTicks := 1 }, txBuf := 0xFFFF, txLen := 1, turns := turns }

/-- A turn of the foreground between two ticks. -/
def tickFgTick : List Agent := [.tick, .fg, .tick]

/-- A number of ticks. -/
def ticks (n : Nat) : List Agent := List.replicate n .tick

/-- TransmissionCompletesAfterItsTicks, TransmissionWaitsForItsTicks: with N = 1 and one byte, 19 ticks; one too few. -/
theorem witness_transmission_completes : ∃ (s : State) (ts rest : List Agent),
    s.fgPc = .running .rfTransmitBuffer 4 ∧ s.rfState = .START ∧ s.timerOn = true ∧ s.gie = true ∧
      1 ≤ s.params.leadInTicks ∧ 1 ≤ s.txLen ∧ s.txBuf + s.txLen ≤ 2 ^ s.params.addrBits ∧
      (∀ a ∈ ts, a = .fg ∨ a = .tick) ∧ ts.count .tick = s.params.leadInTicks + 16 * s.txLen + 2 ∧
      s.turns = ts ++ .fg :: rest :=
  ⟨armed (ticks 19 ++ .fg :: []), ticks 19, [], rfl, rfl, rfl, rfl, Nat.le_refl 1, Nat.le_refl 1, Nat.le_refl 65536,
    by decide, by decide, rfl⟩
theorem witness_transmission_waits : ∃ (s : State) (ts rest : List Agent),
    s.fgPc = .running .rfTransmitBuffer 4 ∧ s.rfState = .START ∧ 1 ≤ s.params.leadInTicks ∧ 1 ≤ s.txLen ∧
      s.txBuf + s.txLen ≤ 2 ^ s.params.addrBits ∧ (∀ a ∈ ts, a = .fg ∨ a = .tick) ∧
      ts.count .tick < s.params.leadInTicks + 16 * s.txLen + 2 ∧ s.turns = ts ++ rest :=
  ⟨armed (ticks 18 ++ []), ticks 18, [], rfl, rfl, Nat.le_refl 1, Nat.le_refl 1, Nat.le_refl 65536, by decide,
    by decide, rfl⟩

/-- WaitWithoutTicksNeverEnds: either bit off. -/
theorem witness_no_ticks :
    ({ inPhase .START with timerOn := false } : State).timerOn = false ∧
      ({ inPhase .START with gie := false } : State).gie = false ∧ (inPhase .START).rfState ≠ .IDLE := by decide

/-- TransmissionFollowsTheFrameLaw. -/
theorem witness_frame : (inPhase .START).rfState = .START ∧ 1 ≤ (inPhase .START).params.leadInTicks ∧
    1 ≤ (inPhase .START).txLen ∧
      (inPhase .START).txBuf + (inPhase .START).txLen ≤ 2 ^ (inPhase .START).params.addrBits := by decide

/-- IdleStartLeadInAndEndTicks, FirstHalfTickShowsTheInvertedBit, SecondHalfTickComplementsAndCounts: every phase, the bit
counter at both ends. -/
theorem witness_phases :
    [RfState.IDLE, .START, .LEAD_IN, .END].map (fun r => (inPhase r).rfState) = [.IDLE, .START, .LEAD_IN, .END] ∧
      (let s := { inPhase .BIT_PHASE1 with bitIdx := 7 }
       s.rfState = .BIT_PHASE1 ∧ s.txBuf + s.byteIdx < 2 ^ s.params.addrBits ∧ s.bitIdx ≤ 7) ∧
      (inPhase .BIT_PHASE2).rfState = .BIT_PHASE2 ∧ (inPhase .BIT_PHASE2).bitIdx ≠ 7 ∧
      ({ inPhase .BIT_PHASE2 with bitIdx := 7 } : State).bitIdx = 7 := by decide

/-- TicksRunExactlyWhenEnabled: each clause. -/
theorem witness_tick_turn :
    (let s := { inPhase .IDLE with turns := [.tick] }
     s.turns = .tick :: [] ∧ s.timerOn = true ∧ s.gie = true) ∧
    (let s := { State.reset with turns := [.tick] }
     s.turns = .tick :: [] ∧ s.timerOn = false ∧ s.gie = false) := by decide

/-- TickWritesOnlyRadioState, RadioStateMovesByTheTable, ControlBitsHaveOneWriter, EachPinHasItsOwner: steps that answer a next
state and change what the statement speaks of. -/
theorem witness_tick_changes : field (fun t => decide (t.rfState ≠ .START))
    (step { inPhase .START with turns := [.tick] }) = some true := by decide
theorem witness_timer_changes : field (fun t => t.timerOn) (step { running .rfInit 2 with turns := [.fg] }) =
    some true := by decide
theorem witness_gie_changes :
    field (fun t => t.gie) (step { State.reset with hostQ := [.setGie true], turns := [.host] }) = some true := by decide
theorem witness_pin_changes : field (fun t => t.drvSDA) (step { running .busInit 1 with turns := [.fg] }) =
    some .Z := by decide

/-- BusOperationFrame, BusReadBufferMemoryFrame, RadioOperationFrame: a next state in every operation's first micro-step, and
in the store. -/
theorem witness_frames :
    [Instr.busInit, .busStart, .busStop, .busWriteByte 1, .busReadByte, .busReadBuffer, .rfInit, .rfTransmitBuffer].map
      (fun i => (nextOf (exec i (running (opOf i) 0))).isSome) = List.replicate 8 true ∧
      (nextOf (exec .rfTransmitPacket ready)).isSome = true ∧
      (running .busReadBuffer 8).fgPc = .running .busReadBuffer 8 ∧ (running .busReadBuffer 8).mem.wf = true ∧
      ¬((running .busReadBuffer 8).fgPc = .running .busReadBuffer 8 ∧ 0x0101 = storeAddress (running .busReadBuffer 8)) := by
  decide

/-- StepKeepsTheInvariant, NothingAborts, OnlyTheTickMovesAnArmedTransmission, TicksRunExactlyWhenEnabled,
WaitWithoutTicksNeverEnds: a state in flight, with an act of the host to come, that meets the
invariant while the foreground has the turn. -/
theorem witness_invariant : ({ inPhase .BIT_PHASE2 with turns := [.fg], hostQ := [.setGie true] } : State).Inv := by
  refine ⟨?_, ?_, .inr rfl, .inr ⟨?_, ?_, ?_⟩⟩
  · unfold State.DataInv; decide
  · show FgAt _ .rfTransmitBuffer 4
    unfold FgAt State.operandsOk
    decide
  · decide
  · decide
  · show _ ∧ _
    decide
theorem witness_in_flight :
    (let s := { inPhase .BIT_PHASE2 with turns := [.fg], hostQ := [.setGie true] }
     s.rfState ≠ .IDLE ∧ s.choose.1 ≠ some .tick ∧ (nextOf (step s)).isSome = true) := by decide

/-- StepKeepsTheLineInvariant, EverySampleIsOfAReleasedLine: the sample of `BUS_WRITE_BYTE`. -/
theorem witness_lines : ({ running .busWriteByte 10 with drvSCL := .Z, drvSDA := .Z } : State).LinesInv := by
  refine ⟨fun h => ?_, fun op k h => ?_, fun h => ?_, fun h => ?_⟩
  · exact h.elim (fun h => by cases h) (fun h => by rcases h with h | h | h <;> cases h)
  · cases h
    exact ⟨fun d hd => by cases hd; rfl, fun d hd => by cases hd; rfl⟩
  · cases h
  · cases h
theorem witness_sample : (programOf .busWriteByte)[10]? = some .sampleSda ∧
    (nextOf (step { running .busWriteByte 10 with drvSCL := .Z, drvSDA := .Z, turns := [.fg] })).isSome = true := by
  decide

/-- DataChangesOnlyWhileClockIsLow: a data bit set while the clock is low. -/
theorem witness_data_lines : ({ running .busWriteByte 1 with sh := 0x80, i := 7 } : State).LinesInv := by
  refine ⟨fun h => ?_, fun op k h => ?_, fun h => ?_, fun h => ?_⟩
  · exact h.elim (fun h => by cases h) (fun h => by rcases h with h | h | h <;> cases h)
  · cases h
    exact ⟨fun d hd => by cases hd; rfl, fun d hd => by cases hd⟩
  · cases h
  · cases h
theorem witness_data_changes :
    (let s := { running .busWriteByte 1 with sh := 0x80, i := 7 }
     field (fun t => decide ((wires t).sda ≠ (wires s).sda)) (fgStep s) = some true) := by decide

/-- UnspecifiedElementsNeverMatter: reset, and reset with other launch values in the elements rule R22 leaves free. -/
theorem witness_agree : Agree State.reset
    { State.reset with drvSCL := .PU, drvSDA := .D0, sh := 0xFF, i := 9, resStatus := 3, txBuf := 7, bitIdx := 8 } := by
  unfold Agree
  decide

/-- IdleTicksNeverDisturbTheBus: V60, ticks before and after a micro-step, more turns to come. -/
theorem witness_idle_ticks :
    (let s := { running .busWriteByte 0 with timerOn := true, gie := true, turns := tickFgTick ++ ticks 1 }
     s.rfState = .IDLE ∧ s.fgPc = .running .busWriteByte 0 ∧ Op.busWriteByte ≠ .rfTransmitBuffer ∧
       (∀ a ∈ tickFgTick, a = .fg ∨ a = .tick) ∧ tickFgTick.count .fg = 1 ∧ s.turns = tickFgTick ++ ticks 1) := by
  decide

/-- OpcodeTableSelectsOneRow, LegalWordsAreExactlyTheEncodings, IllegalWordsAreThoseOfTheRule: a row and a word it selects, a
legal word, an illegal one. -/
theorem witness_rows : (⟨"BUS_WRITE_BYTE", 0x4000, 0xFF00⟩ : OpcodeRow) ∈ opcodeTable ∧
    (⟨"BUS_WRITE_BYTE", 0x4000, 0xFF00⟩ : OpcodeRow).selects 0x40FF = true ∧ decode 0x40FF = .ok (.busWriteByte 0xFF) ∧
      decode 0x4100 = .error (.zeroFieldSet 1) := by decide

end Sys2Proof.Tests
end

section
/-! SUPPORT. What one step of the machine can be: the choice of who moves, then one move of that agent (rules R10, R13,
R76, R163). -/

namespace Sys2Proof.Machine

/-! ### What one step can be -/

/-- What an agent can do in its turn (R10): nothing; for the host, one act, where `issue` and the operand writes find
`fg_pc` at `READY` (R76); for the foreground, the micro-step `fg_pc` names with what follows it (R13); for TICK, its
handler where a tick is possible (R163). -/
inductive Moves : Agent → State → State → Prop
  | rest (a : Agent) (s : State) : Moves a s s
  | refuse {s : State} {w : CommandWord} {acts : List HostAct} (hq : s.hostQ = .issue w :: acts)
      (hpc : s.fgPc = .ready) : Moves .host s { s with hostQ := acts }.refuse
  | issue {s : State} {w : CommandWord} {acts : List HostAct} (i : Instr) (hq : s.hostQ = .issue w :: acts)
      (hpc : s.fgPc = .ready) : Moves .host s (issued i { s with hostQ := acts })
  | writePtr {s : State} {p : Nat} {acts : List HostAct} (hq : s.hostQ = .writePtr p :: acts) (hpc : s.fgPc = .ready) :
      Moves .host s { s with hostQ := acts, argPtr := fitTo s.params.addrBits p }
  | writeLen {s : State} {n : Nat} {acts : List HostAct} (hq : s.hostQ = .writeLen n :: acts) (hpc : s.fgPc = .ready) :
      Moves .host s { s with hostQ := acts, argLen := fitTo s.params.lenBits n }
  | setGie {s : State} {b : Bool} {acts : List HostAct} (hq : s.hostQ = .setGie b :: acts) :
      Moves .host s { s with hostQ := acts, gie := b }
  | store {s : State} {x : Nat} {v : Byte} {acts : List HostAct} (hq : s.hostQ = .store x v :: acts) :
      Moves .host s { s with hostQ := acts, mem := s.mem.write (fitTo s.params.addrBits x) v }
  | micro {s u : State} {op : Op} {k : Nat} {a : Action} (hpc : s.fgPc = .running op k)
      (ha : (programOf op)[k]? = some a) (hu : a.run s = .next u) : Moves .fg s (following op k u)
  | tick {s t : State} (hp : s.tickPossible = true) (ht : tickHandler s = .next t) : Moves .tick s t

theorem hostStep_moves {s t : State} (h : hostStep s = .next t) : Moves .host s t := by
  rcases hostStep_next h with rfl | ⟨a, acts, hq, hc, ha⟩
  · exact .rest _ _
  cases a with
  | issue w =>
    have hpc := hostCanMove_waits hq hc rfl
    simp only [HostAct.run, issueWord] at ha
    split at ha
    · next i _ =>
      rw [exec_ready (s := { s with hostQ := acts }) hpc] at ha
      cases ha
      exact .issue i hq hpc
    · cases ha
      exact .refuse hq hpc
  | writePtr p => cases ha; exact .writePtr hq (hostCanMove_waits hq hc rfl)
  | writeLen n => cases ha; exact .writeLen hq (hostCanMove_waits hq hc rfl)
  | setGie b => cases ha; exact .setGie hq
  | store x v => cases ha; exact .store hq

theorem fgStep_moves {s t : State} (h : fgStep s = .next t) : Moves .fg s t := by
  cases hpc : s.fgPc with
  | ready =>
    rw [fgStep_ready hpc] at h
    cases h
    exact .rest _ _
  | running op k =>
    rw [fgStep_running hpc] at h
    obtain ⟨hr, -⟩ | ⟨k', a, u, hpc', ha, hu, rfl⟩ := exec_next h
    · simp [hpc] at hr
    · rw [opOf_instrOf] at hpc' ha ⊢
      exact .micro hpc' ha hu

theorem tickStep_moves {s t : State} (h : tickStep s = .next t) : Moves .tick s t := by
  rw [tickStep_eq] at h
  split at h
  · next hp => exact .tick hp h
  · cases h; exact .rest _ _

theorem agentStep_moves {a : Agent} {s t : State} (h : agentStep a s = .next t) : Moves a s t := by
  cases a with
  | host => exact hostStep_moves h
  | fg => exact fgStep_moves h
  | tick => exact tickStep_moves h

/-- A step is a move of the agent chosen, or, where nobody moves, the choice alone. -/
theorem step_moves {s t : State} (h : step s = .next t) :
    t = s.choose.2 ∨ ∃ a, s.choose.1 = some a ∧ Moves a s.choose.2 t := by
  rcases step_next h with ⟨-, ht⟩ | ⟨a, ha, ht⟩
  · exact .inl ht
  · exact .inr ⟨a, ha, agentStep_moves ht⟩

/-- A property of states that does not speak of whose turn it is, kept by every move, is kept by every step. -/
theorem step_keeps {P : State → Prop}
    (hturn : ∀ s turns fairIn n, P s → P { s with turns := turns, fairIn := fairIn, freeCtr := n })
    (hmove : ∀ a s t, P s → Moves a s t → P t) {s t : State} (hs : P s) (h : step s = .next t) : P t := by
  have hc : P s.choose.2 := by
    rw [choose_frame]
    exact hturn _ _ _ _ hs
  rcases step_moves h with rfl | ⟨a, -, hm⟩
  · exact hc
  · exact hmove a _ _ hc hm

/-! ### One turn -/

/-- Settles O10: the turn is the foreground's, and inside an operation its step is `exec` of that operation. -/
theorem stepRunsTheOperationInProgress : Obligations.StepRunsTheOperationInProgress := by
  intro s op k later hpc hturns
  unfold step
  rw [choose_turn hturns]
  exact fgStep_running (s := { s with turns := later }) hpc

theorem step_hostTurn {s : State} {later : List Agent} (h : s.turns = .host :: later) :
    step s = hostStep { s with turns := later } := by
  unfold step
  rw [choose_turn h]
  rfl

/-- A host act that waits finds `fg_pc` inside an operation and stays the next act (R76). -/
theorem hostStep_waits {s : State} {a : HostAct} {acts : List HostAct} (hq : s.hostQ = a :: acts)
    (hw : a.waits = true) (hpc : s.fgPc ≠ .ready) : hostStep s = .next s := by
  simp [hostStep, State.hostCanMove, hq, hw, hpc]

/-- A host act that need not wait, or finds `READY`, is performed and used up (R76). -/
theorem hostStep_acts {s : State} {a : HostAct} {acts : List HostAct} (hq : s.hostQ = a :: acts)
    (h : a.waits = true → s.fgPc = .ready) : hostStep s = a.run { s with hostQ := acts } := by
  have hc : s.hostCanMove = true := by
    cases hw : a.waits with
    | true => simp [State.hostCanMove, hq, h hw]
    | false => simp [State.hostCanMove, hq, hw]
  simp only [hostStep, hq, hc, if_true]

/-- Settles O13: an act that waits leaves the state inside an operation, every other act is performed. -/
theorem issueWaitsForReady : Obligations.IssueWaitsForReady := by
  intro s a acts later hq hturns
  rw [step_hostTurn hturns]
  have hwaits (hw : a.waits = true) (hpc : s.fgPc ≠ .ready) :=
    hostStep_waits (s := { s with turns := later }) hq hw hpc
  have hacts (h : a.waits = true → s.fgPc = .ready) :=
    hostStep_acts (s := { s with turns := later }) hq h
  refine ⟨fun hpc => ⟨?_, ?_, ?_⟩, fun hpc => ⟨?_, ?_⟩, ?_, ?_⟩
  · rintro w rfl
    exact hwaits rfl hpc
  · rintro p rfl
    exact hwaits rfl hpc
  · rintro n rfl
    exact hwaits rfl hpc
  · rintro p rfl
    exact hacts fun _ => hpc
  · rintro n rfl
    exact hacts fun _ => hpc
  · rintro b rfl
    exact hacts nofun
  · rintro x v rfl
    exact ⟨_, hacts nofun, rfl, Memory.read_write_self, fun y hy => Memory.read_write_other hy⟩

/-- Settles O52: at reset no agent can move, so the step chooses nobody. -/
theorem resetIsIdleAndReady : Obligations.ResetIsIdleAndReady := by
  have hnobody : State.reset.choose = (none, State.reset) := rfl
  refine ⟨rfl, rfl, rfl, rfl, ?_⟩
  unfold step
  rw [hnobody]
  rfl

end Sys2Proof.Machine
end

section
/-! SUPPORT. The micro-programs: what each action writes and where it stands, and where `fg_pc` goes after a micro-step
(rules R101 to R106, R131, R133). -/

namespace Sys2Proof.Machine

/-! ### What an action writes, and where it stands -/

/-- What holds of each micro-step of each program holds of the micro-step an index names. -/
theorem microStep_forall {P : Op → Nat → Action → Prop}
    (h : ∀ op, ∀ k : Fin (programOf op).length, P op k (programOf op)[k]) {op : Op} {k : Nat} {a : Action}
    (ha : (programOf op)[k]? = some a) : P op k a := by
  obtain ⟨hk, rfl⟩ := List.getElem?_eq_some_iff.mp ha
  exact h op ⟨k, hk⟩

/-- An action that writes the drive state of SCL or SDA (R82 to R84, R90). -/
def Action.writesBusPin (a : Action) : Bool :=
  match a with
  | .release _ => true
  | .pullup _ => true
  | .low _ => true
  | .sda _ => true
  | _ => false

/-- What an action that leads from `s` to `u` does to the pins, the radio's elements, `timer_on` and memory. -/
structure ActionWrites (a : Action) (s u : State) : Prop where
  drvRF : u.drvRF = s.drvRF ∨ ∃ v, a = .rfSet v
  busPins : (u.drvSCL = s.drvSCL ∧ u.drvSDA = s.drvSDA) ∨ a.writesBusPin = true
  rfState : u.rfState = s.rfState ∨ a = .rfWrite u.rfState
  txBuf : u.txBuf = if a = .writeTxBuf then s.argPtr else s.txBuf
  txLen : u.txLen = if a = .writeTxLen then s.argLen else s.txLen
  timerOn : u.timerOn = if a = .timerStart then true else s.timerOn
  mem : u.mem = s.mem ∨ storeAddress s < s.params.space ∧ u.mem = s.mem.write (storeAddress s) s.sh

theorem action_writes {a : Action} {s u : State} (h : a.run s = .next u) : ActionWrites a s u := by
  cases a with
  | release X => cases X <;> cases h <;> constructor <;> simp [Action.writesBusPin]
  | pullup X => cases X <;> cases h <;> constructor <;> simp [Action.writesBusPin]
  | low X => cases X <;> cases h <;> constructor <;> simp [Action.writesBusPin]
  | sampleSda => cases h; rw [pinRead_frame s .SDA]; constructor <;> simp
  | sda b =>
    simp only [Action.run] at h
    split at h
    · next v _ => cases v <;> cases h <;> constructor <;> simp [State.putBit, Action.writesBusPin]
    · cases h
  | storeByte => obtain ⟨hx, rfl⟩ := State.memWrite_next h; constructor <;> simp [hx]
  | _ => cases h; constructor <;> simp

theorem rfSet_at {op : Op} {k : Nat} {v : Level} (h : (programOf op)[k]? = some (.rfSet v)) : op = .rfInit ∧ k = 0 :=
  microStep_forall (P := fun op k a => a = .rfSet v → op = .rfInit ∧ k = 0)
    (by intro op; cases op <;> cases v <;> decide) h rfl

theorem timerStart_at {op : Op} {k : Nat} {a : Action} (h : (programOf op)[k]? = some a) :
    a = .timerStart ↔ op = .rfInit ∧ k = 2 :=
  microStep_forall (P := fun op k a => a = .timerStart ↔ op = .rfInit ∧ k = 2) (by intro op; cases op <;> decide) h

theorem writeTxBuf_at {op : Op} {k : Nat} {a : Action} (h : (programOf op)[k]? = some a) :
    a = .writeTxBuf ↔ op = .rfTransmitBuffer ∧ k = 1 :=
  microStep_forall (P := fun op k a => a = .writeTxBuf ↔ op = .rfTransmitBuffer ∧ k = 1)
    (by intro op; cases op <;> decide) h

theorem writeTxLen_at {op : Op} {k : Nat} {a : Action} (h : (programOf op)[k]? = some a) :
    a = .writeTxLen ↔ op = .rfTransmitBuffer ∧ k = 2 :=
  microStep_forall (P := fun op k a => a = .writeTxLen ↔ op = .rfTransmitBuffer ∧ k = 2)
    (by intro op; cases op <;> decide) h

theorem rfWrite_at {op : Op} {k : Nat} {v : RfState} (h : (programOf op)[k]? = some (.rfWrite v)) :
    op = .rfInit ∧ k = 1 ∧ v = .IDLE ∨ op = .rfTransmitBuffer ∧ k = 3 ∧ v = .START :=
  microStep_forall
    (P := fun op k a => a = .rfWrite v →
      op = .rfInit ∧ k = 1 ∧ v = .IDLE ∨ op = .rfTransmitBuffer ∧ k = 3 ∧ v = .START)
    (by intro op; cases op <;> cases v <;> decide) h rfl

theorem writesBusPin_at {op : Op} {k : Nat} {a : Action} (h : (programOf op)[k]? = some a)
    (hw : a.writesBusPin = true) : op ≠ .rfInit ∧ op ≠ .rfTransmitBuffer ∧ op ≠ .rfTransmitPacket :=
  microStep_forall
    (P := fun op _ a => a.writesBusPin = true → op ≠ .rfInit ∧ op ≠ .rfTransmitBuffer ∧ op ≠ .rfTransmitPacket)
    (by intro op; cases op <;> decide) h hw

/-! ### What a choice of who moves and what follows a micro-step leave -/

@[simp] theorem following_drvSCL (op : Op) (k : Nat) (s : State) : (following op k s).drvSCL = s.drvSCL := by
  rw [following_frame]
@[simp] theorem following_drvSDA (op : Op) (k : Nat) (s : State) : (following op k s).drvSDA = s.drvSDA := by
  rw [following_frame]
@[simp] theorem following_drvRF (op : Op) (k : Nat) (s : State) : (following op k s).drvRF = s.drvRF := by
  rw [following_frame]
@[simp] theorem following_rfState (op : Op) (k : Nat) (s : State) : (following op k s).rfState = s.rfState := by
  rw [following_frame]
@[simp] theorem following_timerOn (op : Op) (k : Nat) (s : State) : (following op k s).timerOn = s.timerOn := by
  rw [following_frame]
@[simp] theorem following_gie (op : Op) (k : Nat) (s : State) : (following op k s).gie = s.gie := by
  rw [following_frame]

@[simp] theorem choose_fgPc (s : State) : s.choose.2.fgPc = s.fgPc := by rw [choose_frame]
@[simp] theorem choose_drvSCL (s : State) : s.choose.2.drvSCL = s.drvSCL := by rw [choose_frame]
@[simp] theorem choose_drvSDA (s : State) : s.choose.2.drvSDA = s.drvSDA := by rw [choose_frame]
@[simp] theorem choose_drvRF (s : State) : s.choose.2.drvRF = s.drvRF := by rw [choose_frame]
@[simp] theorem choose_timerOn (s : State) : s.choose.2.timerOn = s.timerOn := by rw [choose_frame]
@[simp] theorem choose_gie (s : State) : s.choose.2.gie = s.gie := by rw [choose_frame]
@[simp] theorem choose_hostQ (s : State) : s.choose.2.hostQ = s.hostQ := by rw [choose_frame]

/-! ### Where `fg_pc` goes -/

/-- The micro-step after micro-step `k`, where the program has one. -/
def advance (op : Op) (k : Nat) : List Nat := if k + 1 < (programOf op).length then [k + 1] else []

/-- The micro-steps that can follow micro-step `k` inside an operation: the next one, but at the end of a bit loop or of
the byte loop its start, and at the wait of `RF_TRANSMIT_BUFFER` the wait (R104 to R106, R133). -/
def successors (op : Op) (k : Nat) : List Nat :=
  match op with
  | .busWriteByte => if k = 5 then [1, 6] else advance op k
  | .busReadByte => if k = 7 then [2, 8] else advance op k
  | .busReadBuffer => if k = 7 then [2, 8] else if k = 14 then [2] else advance op k
  | .rfTransmitBuffer => if k = 4 then [4] else advance op k
  | _ => advance op k

/-- Where an operation ends: after its last micro-step, `BUS_READ_BUFFER` after the ninth pulse of its last byte,
`RF_TRANSMIT_BUFFER` at its two tests of the radio (R101 to R106, R131, R133). -/
def Completes (op : Op) (k : Nat) (s : State) : Prop :=
  match op with
  | .busReadBuffer => k = 13 ∧ ¬s.k + 1 < s.argLen
  | .rfTransmitBuffer => k = 0 ∨ k = 4
  | _ => k + 1 = (programOf op).length

theorem straight_fgPc {op : Op} {p : List Action} {k : Nat} (s : State) (hk : k < p.length) :
    k + 1 < p.length ∧ (straight op p k s).fgPc = .running op (k + 1) ∨
      (straight op p k s).fgPc = .ready ∧ k + 1 = p.length := by
  unfold straight
  split
  · next h => exact .inl ⟨h, rfl⟩
  · exact .inr ⟨rfl, by omega⟩

theorem straight_successors {op : Op} {k : Nat} {s : State} (hk : k < (programOf op).length)
    (hop : successors op k = advance op k) :
    (∃ k' ∈ successors op k, (straight op (programOf op) k s).fgPc = .running op k') ∨
      (straight op (programOf op) k s).fgPc = .ready ∧ k + 1 = (programOf op).length :=
  (straight_fgPc s hk).imp_left fun ⟨h, hpc⟩ => ⟨k + 1, by simp [hop, advance, h], hpc⟩

theorem busWriteByte_length : (programOf .busWriteByte).length = 13 := rfl
theorem busReadByte_length : (programOf .busReadByte).length = 13 := rfl
theorem busReadBuffer_length : (programOf .busReadBuffer).length = 15 := rfl
theorem rfTransmitBuffer_length : (programOf .rfTransmitBuffer).length = 5 := rfl

/-- After a micro-step the operation goes on at one of its successors, or completes where it can end. -/
theorem following_fgPc {op : Op} {k : Nat} {s : State} (hpc : s.fgPc = .running op k)
    (hk : k < (programOf op).length) :
    (∃ k' ∈ successors op k, (following op k s).fgPc = .running op k') ∨
      (following op k s).fgPc = .ready ∧ Completes op k s := by
  cases op with
  | busInit => exact straight_successors hk rfl
  | busStart => exact straight_successors hk rfl
  | busStop => exact straight_successors hk rfl
  | busWriteByte =>
    rw [busWriteByte_length] at hk
    simp only [following]
    unfold busWriteByteAfter
    split
    · exact .inl ⟨1, by decide, rfl⟩
    · split
      · exact .inl ⟨6, by decide, rfl⟩
      · exact .inl ⟨1, by decide, rfl⟩
    · exact .inr ⟨rfl, rfl⟩
    · simp only [imp_false] at *
      have hlt : k + 1 < 13 := by omega
      exact .inl ⟨k + 1, by simp [successors, advance, busWriteByte_length, *], rfl⟩
  | busReadByte =>
    rw [busReadByte_length] at hk
    simp only [following]
    unfold busReadByteAfter
    split
    · exact .inl ⟨2, by decide, rfl⟩
    · split
      · exact .inl ⟨8, by decide, rfl⟩
      · exact .inl ⟨2, by decide, rfl⟩
    · exact .inr ⟨rfl, rfl⟩
    · simp only [imp_false] at *
      have hlt : k + 1 < 13 := by omega
      exact .inl ⟨k + 1, by simp [successors, advance, busReadByte_length, *], rfl⟩
  | busReadBuffer =>
    rw [busReadBuffer_length] at hk
    simp only [following]
    unfold busReadBufferAfter
    split
    · exact .inl ⟨2, by decide, rfl⟩
    · split
      · exact .inl ⟨8, by decide, rfl⟩
      · exact .inl ⟨2, by decide, rfl⟩
    · split
      · exact .inl ⟨14, by decide, rfl⟩
      · next h => exact .inr ⟨rfl, rfl, h⟩
    · exact .inl ⟨2, by decide, rfl⟩
    · simp only [imp_false] at *
      have hlt : k + 1 < 15 := by omega
      exact .inl ⟨k + 1, by simp [successors, advance, busReadBuffer_length, *], rfl⟩
  | rfInit => exact straight_successors hk rfl
  | rfTransmitBuffer =>
    rw [rfTransmitBuffer_length] at hk
    simp only [following]
    unfold rfTransmitBufferAfter
    split
    · split
      · exact .inr ⟨rfl, .inl rfl⟩
      · exact .inl ⟨1, by decide, rfl⟩
    · split
      · exact .inl ⟨4, by decide, hpc⟩
      · exact .inr ⟨rfl, .inr rfl⟩
    · simp only [imp_false] at *
      have hlt : k + 1 < 5 := by omega
      exact .inl ⟨k + 1, by simp [successors, advance, rfTransmitBuffer_length, *], rfl⟩
  | rfTransmitPacket => exact absurd hk (by simp [programOf])

theorem eq_of_mem_advance {op : Op} {k k' : Nat} (h : k' ∈ advance op k) : k' = k + 1 := by
  unfold advance at h
  split at h
  · exact List.mem_singleton.1 h
  · cases h

/-- No operation returns to its first micro-step. -/
theorem successors_pos {op : Op} {k k' : Nat} {a : Action} (ha : (programOf op)[k]? = some a)
    (h : k' ∈ successors op k) : k' ≠ 0 :=
  microStep_forall (P := fun op k _ => ∀ k' ∈ successors op k, k' ≠ 0) (by intro op; cases op <;> decide) ha k' h

/-- From the ninth bit of a byte to the release after it the byte counter stands (R106). -/
theorem busReadBufferAfter_k {k k' : Nat} {s : State} (h : (busReadBufferAfter k s).fgPc = .running .busReadBuffer k')
    (hk' : 10 ≤ k') : (busReadBufferAfter k s).k = s.k := by
  unfold busReadBufferAfter at h ⊢
  split at h
  · cases h; omega
  · split <;> rfl
  · split
    · rfl
    · next hend => simp [hend] at h
  · cases h; omega
  · rfl

end Sys2Proof.Machine
end

section
/-! SUPPORT. The control bits and the pins have one writer each (rules R17, R21 item 3, R81). -/

namespace Sys2Proof.Machine

theorem moves_timerOn {a : Agent} {s t : State} (h : Moves a s t) :
    t.timerOn = s.timerOn ∨ t.timerOn = true ∧ a = .fg ∧ s.fgPc = .running .rfInit 2 := by
  cases h with
  | issue i => left; rw [issued_frame]
  | micro hpc ha hu =>
    have htimer := (action_writes hu).timerOn
    simp only [timerStart_at ha] at htimer
    split at htimer
    · next hat => exact .inr ⟨by simpa using htimer, rfl, by rw [hpc, hat.1, hat.2]⟩
    · exact .inl (by simpa using htimer)
  | tick _ ht => left; rw [tickHandler_frame ht]
  | _ => exact .inl rfl

theorem moves_gie {a : Agent} {s t : State} (h : Moves a s t) :
    t.gie = s.gie ∨ a = .host ∧ s.hostQ.head? = some (.setGie t.gie) := by
  cases h with
  | issue i => left; rw [issued_frame]
  | setGie hq => exact .inr ⟨rfl, by rw [hq]; rfl⟩
  | micro hpc ha hu => left; rw [following_gie, action_frame hu]
  | tick _ ht => left; rw [tickHandler_frame ht]
  | _ => exact .inl rfl

theorem moves_drvRF {a : Agent} {s t : State} (h : Moves a s t) :
    t.drvRF = s.drvRF ∨ a = .tick ∨ a = .fg ∧ s.fgPc = .running .rfInit 0 := by
  cases h with
  | issue i => left; rw [issued_frame]
  | micro hpc ha hu =>
    rcases (action_writes hu).drvRF with h | ⟨v, rfl⟩
    · exact .inl (by simpa using h)
    · obtain ⟨rfl, rfl⟩ := rfSet_at ha
      exact .inr (.inr ⟨rfl, hpc⟩)
  | tick _ ht => exact .inr (.inl rfl)
  | _ => exact .inl rfl

theorem moves_busPins {a : Agent} {s t : State} (h : Moves a s t) :
    (t.drvSCL = s.drvSCL ∧ t.drvSDA = s.drvSDA) ∨ a = .fg ∧
      ∃ op k, s.fgPc = .running op k ∧ op ≠ .rfInit ∧ op ≠ .rfTransmitBuffer ∧ op ≠ .rfTransmitPacket := by
  cases h with
  | issue i => left; rw [issued_frame]; exact ⟨rfl, rfl⟩
  | micro hpc ha hu =>
    rcases (action_writes hu).busPins with h | hw
    · exact .inl (by simpa using h)
    · exact .inr ⟨rfl, _, _, hpc, writesBusPin_at ha hw⟩
  | tick _ ht => left; rw [tickHandler_frame ht]; exact ⟨rfl, rfl⟩
  | _ => exact .inl ⟨rfl, rfl⟩

/-- Settles O50: only `timerStart`, at the last micro-step of `RF_INIT`, and the host's `setGie` write a control bit. -/
theorem controlBitsHaveOneWriter : Obligations.ControlBitsHaveOneWriter := by
  intro s t h
  rcases step_moves h with rfl | ⟨a, ha, hm⟩
  · simp
  · have htimer := moves_timerOn hm
    have hgie := moves_gie hm
    simp only [choose_timerOn, choose_gie, choose_fgPc, choose_hostQ] at htimer hgie
    refine ⟨fun hs => ?_, fun hne => ?_, fun hne => ?_⟩
    · rcases htimer with h | h
      · rw [h, hs]
      · exact h.1
    · obtain ⟨-, rfl, hpc⟩ := htimer.resolve_left hne
      exact ⟨ha, hpc⟩
    · obtain ⟨rfl, hq⟩ := hgie.resolve_left hne
      exact ⟨ha, hq⟩

/-- Settles O51: only `rfSet`, at the first micro-step of `RF_INIT`, and the tick write RF_OUT, and only a bus operation
has an action that writes a bus pin. -/
theorem eachPinHasItsOwner : Obligations.EachPinHasItsOwner := by
  intro s t h
  rcases step_moves h with rfl | ⟨a, ha, hm⟩
  · simp
  · have hrf := moves_drvRF hm
    have hbus := moves_busPins hm
    simp only [choose_drvRF, choose_drvSCL, choose_drvSDA, choose_fgPc] at hrf hbus
    refine ⟨fun hne => ?_, fun hne => ?_⟩
    · rcases hrf.resolve_left hne with rfl | ⟨rfl, hpc⟩
      · exact .inl ha
      · exact .inr ⟨ha, hpc⟩
    · obtain ⟨rfl, hop⟩ := hbus.resolve_left (by tauto)
      exact ⟨ha, hop⟩

end Sys2Proof.Machine
end

section
/-! SUPPORT. The invariant of the machine holds at reset and every step keeps it (rules R13, R15, R21, R40, R41). -/

namespace Sys2Proof.Machine

/-! ### The conditions of a micro-step, operation by operation -/

@[simp] theorem fgAt_busInit (s : State) (k : Nat) : FgAt s .busInit k ↔ k < 2 :=
  and_iff_left trivial
@[simp] theorem fgAt_busStart (s : State) (k : Nat) : FgAt s .busStart k ↔ k < 9 :=
  and_iff_left trivial
@[simp] theorem fgAt_busStop (s : State) (k : Nat) : FgAt s .busStop k ↔ k < 6 :=
  and_iff_left trivial
@[simp] theorem fgAt_busWriteByte (s : State) (k : Nat) :
    FgAt s .busWriteByte k ↔ k < 13 ∧ (1 ≤ k ∧ k ≤ 5 → s.i.toNat ≤ 7) := Iff.rfl
@[simp] theorem fgAt_busReadByte (s : State) (k : Nat) :
    FgAt s .busReadByte k ↔ k < 13 ∧ (2 ≤ k ∧ k ≤ 7 → s.i.toNat ≤ 7) := Iff.rfl
@[simp] theorem fgAt_busReadBuffer (s : State) (k : Nat) :
    FgAt s .busReadBuffer k ↔ k < 15 ∧ s.operandsOk ∧ (2 ≤ k ∧ k ≤ 7 → s.i.toNat ≤ 7) ∧ (2 ≤ k → s.k < s.argLen) ∧
      (k = 14 → s.k + 1 < s.argLen) := Iff.rfl
@[simp] theorem fgAt_rfInit (s : State) (k : Nat) : FgAt s .rfInit k ↔ k < 3 :=
  and_iff_left trivial
@[simp] theorem fgAt_rfTransmitBuffer (s : State) (k : Nat) :
    FgAt s .rfTransmitBuffer k ↔ k < 5 ∧ s.operandsOk ∧ (2 ≤ k → s.txBuf = s.argPtr) ∧ (3 ≤ k → s.txLen = s.argLen) :=
  Iff.rfl

theorem fgInv_ready {s : State} (h : s.fgPc = .ready) : s.FgInv := by simp [State.FgInv, h]

theorem fgInv_running {s : State} {op : Op} {k : Nat} (h : s.fgPc = .running op k) : s.FgInv ↔ FgAt s op k := by
  simp [State.FgInv, h]

@[simp] theorem complete_fgInv (s : State) (st : BitVec 2) : (s.complete st).FgInv := trivial

@[simp] theorem goto_fgInv (s : State) (op : Op) (k : Nat) : (s.goto op k).FgInv ↔ FgAt s op k := Iff.rfl

theorem toNat_sub_one_le {i : BitVec 4} (h : i ≠ 0) (hi : i.toNat ≤ 7) : (i - 1).toNat ≤ 7 := by bv_omega

@[simp] theorem straight_fgInv (op : Op) (p : List Action) (k : Nat) (s : State) :
    (straight op p k s).FgInv ↔ (k + 1 < p.length → FgAt s op (k + 1)) := by
  unfold straight
  split
  · next hk => simp [hk]
  · next hk => simp [hk]

/-- What follows a micro-step of a bus operation or of `RF_INIT` leads to one whose conditions hold. -/
theorem following_fgInv {op : Op} {k : Nat} {s : State} (hop : op ≠ .rfTransmitBuffer)
    (hat : FgAt s op k) : (following op k s).FgInv := by
  cases op with
  | busInit => simp [following, busInitProgram]
  | busStart => simp [following, busStartProgram, releaseViaPullup]
  | busStop => simp [following, busStopProgram]
  | busWriteByte =>
    simp only [fgAt_busWriteByte] at hat
    simp only [following]
    unfold busWriteByteAfter
    split
    · simp
    · split
      · simp
      · next hi0 => simpa using toNat_sub_one_le hi0 (by omega)
    · simp
    · simp only [imp_false] at *
      exact (goto_fgInv _ _ _).2 ((fgAt_busWriteByte _ _).2 ⟨by omega, fun _ => hat.2 (by omega)⟩)
  | busReadByte =>
    simp only [fgAt_busReadByte] at hat
    simp only [following]
    unfold busReadByteAfter
    split
    · simp
    · split
      · simp
      · next hi0 => simpa using toNat_sub_one_le hi0 (by omega)
    · simp
    · simp only [imp_false] at *
      exact (goto_fgInv _ _ _).2 ((fgAt_busReadByte _ _).2 ⟨by omega, fun _ => hat.2 (by omega)⟩)
  | busReadBuffer =>
    simp only [fgAt_busReadBuffer] at hat
    simp only [following]
    unfold busReadBufferAfter
    obtain ⟨hk, hops, hi, hbyte, hlast⟩ := hat
    simp only [State.operandsOk, State.bufferFits] at hops
    split
    · simpa [State.operandsOk, State.bufferFits] using ⟨hops, hops.1⟩
    · split
      · simpa [State.operandsOk, State.bufferFits] using ⟨hops, hbyte (by omega)⟩
      · next hi0 =>
        simpa [State.operandsOk, State.bufferFits] using ⟨hops, toNat_sub_one_le hi0 (hi (by omega)), hbyte (by omega)⟩
    · split
      · next h => simpa [State.operandsOk, State.bufferFits] using ⟨hops, hbyte (by omega), h⟩
      · simp
    · simpa [State.operandsOk, State.bufferFits] using ⟨hops, hlast rfl⟩
    · simp only [imp_false] at *
      exact (goto_fgInv _ _ _).2 ((fgAt_busReadBuffer _ _).2
        ⟨by omega, hops, fun _ => hi (by omega), fun _ => hbyte (by omega), by omega⟩)
  | rfInit => simp [following, rfInitProgram]
  | rfTransmitBuffer => exact absurd rfl hop
  | rfTransmitPacket => exact absurd hat.1 (by simp [programOf])

/-! ### Widths, memory and codes -/

theorem straight_resStatus (op : Op) (p : List Action) (k : Nat) (s : State) :
    (straight op p k s).resStatus = s.resStatus ∨ (straight op p k s).resStatus = statusOk := by
  unfold straight
  split
  · exact .inl rfl
  · exact .inr rfl

theorem following_resStatus (op : Op) (k : Nat) (s : State) :
    (following op k s).resStatus = s.resStatus ∨ (following op k s).resStatus = statusOk ∨
      (following op k s).resStatus = statusBusy := by
  cases op with
  | busInit => exact (straight_resStatus _ _ _ _).imp_right .inl
  | busStart => exact (straight_resStatus _ _ _ _).imp_right .inl
  | busStop => exact (straight_resStatus _ _ _ _).imp_right .inl
  | busWriteByte =>
    simp only [following]
    unfold busWriteByteAfter
    split
    · simp
    · split <;> simp
    · simp
    · simp
  | busReadByte =>
    simp only [following]
    unfold busReadByteAfter
    split
    · simp
    · split <;> simp
    · simp
    · simp
  | busReadBuffer =>
    simp only [following]
    unfold busReadBufferAfter
    split
    · simp
    · split <;> simp
    · split <;> simp
    · simp
    · simp
  | rfInit => exact (straight_resStatus _ _ _ _).imp_right .inl
  | rfTransmitBuffer =>
    simp only [following]
    unfold rfTransmitBufferAfter
    split
    · split <;> simp
    · split <;> simp
    · simp
  | rfTransmitPacket => exact .inl rfl

theorem issued_resStatus (i : Instr) (s : State) :
    (issued i s).resStatus = s.resStatus ∨ (issued i s).resStatus = statusOk ∨
      (issued i s).resStatus = statusRefused := by
  cases i with
  | busReadBuffer =>
    simp only [issued]
    unfold State.acceptReadBuffer
    split
    · simp
    · split <;> simp [State.accept]
  | rfTransmitBuffer =>
    simp only [issued]
    unfold State.acceptTransmit
    split
    · simp
    · split <;> simp [State.accept]
  | rfTransmitPacket => exact .inr (.inr rfl)
  | _ => exact .inl rfl

/-- Only `BUS_READ_BUFFER` writes the byte counter: it keeps it, clears it, counts it up or drops it (R106). -/
theorem following_k (op : Op) (k : Nat) (s : State) :
    (following op k s).k = s.k ∨ (following op k s).k = 0 ∨
      op = .busReadBuffer ∧ k = 14 ∧ (following op k s).k = s.k + 1 ∨
      (following op k s).k = Config.freeNat s.freeCtr % 2 ^ s.params.lenBits := by
  cases op with
  | busInit => left; rw [following, straight_frame]
  | busStart => left; rw [following, straight_frame]
  | busStop => left; rw [following, straight_frame]
  | busWriteByte => left; rw [following, busWriteByteAfter_frame]
  | busReadByte => left; rw [following, busReadByteAfter_frame]
  | busReadBuffer =>
    simp only [following]
    unfold busReadBufferAfter
    split
    · simp
    · split <;> simp
    · split <;> simp
    · simp
    · simp
  | rfInit => left; rw [following, straight_frame]
  | rfTransmitBuffer => left; rw [following, rfTransmitBufferAfter_frame]
  | rfTransmitPacket => exact .inl rfl

theorem action_dataInv {a : Action} {s u : State} (hs : s.DataInv) (hu : a.run s = .next u) : u.DataInv := by
  obtain ⟨hp, hptr, hlen, hk, hbuf, htx, hwf, hbelow, hst⟩ := hs
  have hw := action_writes hu
  have hmem : u.mem.wf = true ∧ u.mem.below s.params.space = true := by
    rcases hw.mem with h | ⟨hx, h⟩
    · rw [h]
      exact ⟨hwf, hbelow⟩
    · rw [h]
      exact ⟨Memory.wf_write hwf, Memory.below_write hx hbelow⟩
  have hbuf' : u.txBuf < 2 ^ s.params.addrBits := by rw [hw.txBuf]; split <;> assumption
  have htx' : u.txLen < 2 ^ s.params.lenBits := by rw [hw.txLen]; split <;> assumption
  rw [action_frame hu]
  exact ⟨hp, hptr, hlen, hk, hbuf', htx', hmem.1, hmem.2, hst⟩

theorem following_dataInv {op : Op} {k : Nat} {s : State} (hs : s.DataInv)
    (hlast : op = .busReadBuffer ∧ k = 14 → s.k + 1 < s.argLen) : (following op k s).DataInv := by
  obtain ⟨hp, hptr, hlen, hk, hbuf, htx, hwf, hbelow, hst⟩ := hs
  have hk' : (following op k s).k < 2 ^ s.params.lenBits := by
    rcases following_k op k s with h | h | ⟨hop, hi, h⟩ | h
    · rwa [h]
    · rw [h]; exact Nat.two_pow_pos _
    · have := hlast ⟨hop, hi⟩
      omega
    · rw [h]; exact Nat.mod_lt _ (Nat.two_pow_pos _)
  have hst' : (following op k s).resStatus ≠ 3 := by
    rcases following_resStatus op k s with h | h | h
    · rwa [h]
    · rw [h]; decide
    · rw [h]; decide
  rw [following_frame]
  exact ⟨hp, hptr, hlen, hk', hbuf, htx, hwf, hbelow, hst'⟩

theorem issued_dataInv {i : Instr} {s : State} (hs : s.DataInv) : (issued i s).DataInv := by
  obtain ⟨hp, hptr, hlen, hk, hbuf, htx, hwf, hbelow, hst⟩ := hs
  have hst' : (issued i s).resStatus ≠ 3 := by
    rcases issued_resStatus i s with h | h | h
    · rwa [h]
    · rw [h]; decide
    · rw [h]; decide
  rw [issued_frame]
  exact ⟨hp, hptr, hlen, hk, hbuf, htx, hwf, hbelow, hst'⟩

/-! ### The foreground and the radio -/

theorem busy_iff (s : State) : s.busy = true ↔ s.rfState ≠ .IDLE := by simp [State.busy]

/-- An action moves nothing that the conditions of a micro-step speak of, but what `RF_TRANSMIT_BUFFER` copies. -/
theorem action_fgAt {a : Action} {s u : State} {op : Op} {k : Nat} (hat : FgAt s op k) (hu : a.run s = .next u) :
    FgAt u op k := by
  have hw := action_writes hu
  cases op with
  | rfTransmitBuffer =>
    obtain ⟨hk, hops, hbuf, hlen⟩ := (fgAt_rfTransmitBuffer _ _).1 hat
    have hbuf' : 2 ≤ k → u.txBuf = s.argPtr := fun h => by rw [hw.txBuf, hbuf h, ite_self]
    have hlen' : 3 ≤ k → u.txLen = s.argLen := fun h => by rw [hw.txLen, hlen h, ite_self]
    rw [action_frame hu]
    exact ⟨hk, hops, hbuf', hlen'⟩
  | _ => rw [action_frame hu]; exact hat

/-- At a micro-step before the wait no transmission is in flight; the next micro-step has what this one copied. -/
theorem transmit_fgAt_succ {a : Action} {s u : State} {k : Nat} (hat : FgAt s .rfTransmitBuffer k) (hk : k < 4)
    (ha : (programOf .rfTransmitBuffer)[k]? = some a) (hu : a.run s = .next u) : FgAt u .rfTransmitBuffer (k + 1) := by
  obtain ⟨-, hops, hbuf, hlen⟩ := (fgAt_rfTransmitBuffer _ _).1 hat
  have hw := action_writes hu
  have hbuf' : 2 ≤ k + 1 → u.txBuf = s.argPtr := by
    intro h
    rw [hw.txBuf]
    split
    · rfl
    · next hne => exact hbuf (by simp only [writeTxBuf_at ha, true_and] at hne; omega)
  have hlen' : 3 ≤ k + 1 → u.txLen = s.argLen := by
    intro h
    rw [hw.txLen]
    split
    · rfl
    · next hne => exact hlen (by simp only [writeTxLen_at ha, true_and] at hne; omega)
  rw [action_frame hu]
  exact (fgAt_rfTransmitBuffer _ _).2 ⟨by omega, hops, hbuf', hlen'⟩

theorem issued_fgInv {i : Instr} {s : State} (h : s.fgPc = .ready) : (issued i s).FgInv := by
  cases i with
  | busReadBuffer =>
    simp only [issued]
    unfold State.acceptReadBuffer
    split
    · exact complete_fgInv _ _
    · next h0 =>
      split
      · next hfits => exact (goto_fgInv _ _ _).2 ((fgAt_busReadBuffer _ _).2
          ⟨by omega, ⟨by omega, hfits⟩, by omega, by omega, by omega⟩)
      · exact fgInv_ready h
  | rfTransmitBuffer =>
    simp only [issued]
    unfold State.acceptTransmit
    split
    · exact fgInv_ready h
    · next h0 =>
      split
      · next hfits => exact (goto_fgInv _ _ _).2 ((fgAt_rfTransmitBuffer _ _).2
          ⟨by omega, ⟨by omega, hfits⟩, by omega, by omega⟩)
      · exact fgInv_ready h
  | rfTransmitPacket => exact fgInv_ready h
  | busInit => exact (goto_fgInv _ _ _).2 (by simp)
  | busStart => exact (goto_fgInv _ _ _).2 (by simp)
  | busStop => exact (goto_fgInv _ _ _).2 (by simp)
  | busWriteByte b => exact (goto_fgInv s _ _).2 (by simp)
  | busReadByte => exact (goto_fgInv _ _ _).2 (by simp)
  | rfInit => exact (goto_fgInv _ _ _).2 (by simp)

/-- `RF_TRANSMIT_BUFFER` at its wait: it stays until the radio is idle, then completes (R133). -/
theorem following_wait (s : State) :
    following .rfTransmitBuffer 4 s = if s.busy then s else s.complete statusOk := rfl

/-- Before its wait, idle as the radio is, `RF_TRANSMIT_BUFFER` goes on to the next micro-step. -/
theorem following_transmit {k : Nat} {s : State} (hk : k < 4) (h : k = 0 → s.rfState = .IDLE) :
    following .rfTransmitBuffer k s = s.goto .rfTransmitBuffer (k + 1) := by
  simp only [following]
  unfold rfTransmitBufferAfter
  split
  · simp [State.busy, h rfl]
  · omega
  · rfl

theorem rfTest_of_wait {a : Action} (ha : (programOf .rfTransmitBuffer)[4]? = some a) : a = .rfTest := by
  cases ha
  rfl

theorem inv_idle {s : State} (hd : s.DataInv) (hf : s.FgInv) (hi : s.rfState = .IDLE) : s.Inv :=
  ⟨hd, hf, .inl hi, .inl hi⟩

/-- While a transmission is in flight a micro-step of the foreground is the wait, which changes nothing. -/
theorem micro_inFlight {s u : State} {op : Op} {k : Nat} {a : Action} (hport : s.PortInv) (hrf : s.rfState ≠ .IDLE)
    (hpc : s.fgPc = .running op k) (ha : (programOf op)[k]? = some a) (hu : a.run s = .next u) :
    following op k u = s := by
  have hwait := hport.resolve_left hrf
  rw [hpc] at hwait
  cases hwait
  cases rfTest_of_wait ha
  cases hu
  rw [following_wait, if_pos ((busy_iff s).2 hrf)]

/-- From an idle radio a micro-step leads to an idle one, but where `RF_TRANSMIT_BUFFER` arms the transmission. -/
theorem micro_rfState {s u : State} {op : Op} {k : Nat} {a : Action} (hrf : s.rfState = .IDLE)
    (ha : (programOf op)[k]? = some a) (hu : a.run s = .next u) :
    u.rfState = .IDLE ∨ op = .rfTransmitBuffer ∧ k = 3 ∧ u.rfState = .START := by
  rcases (action_writes hu).rfState with h | rfl
  · exact .inl (h.trans hrf)
  · rcases rfWrite_at ha with ⟨-, -, h⟩ | h
    · exact .inl h
    · exact .inr h

theorem micro_inv {s u : State} {op : Op} {k : Nat} {a : Action} (hs : s.Inv)
    (hpc : s.fgPc = .running op k) (ha : (programOf op)[k]? = some a) (hu : a.run s = .next u) :
    (following op k u).Inv := by
  obtain ⟨hdata, hfg, hport, hradio⟩ := id hs
  by_cases hrf : s.rfState = .IDLE
  swap
  · rwa [micro_inFlight hport hrf hpc ha hu]
  have hat := (fgInv_running hpc).1 hfg
  have hatu := action_fgAt hat hu
  have hdata' : (following op k u).DataInv := by
    refine following_dataInv (action_dataInv hdata hu) ?_
    rintro ⟨rfl, rfl⟩
    obtain ⟨-, -, -, -, hlast⟩ := (fgAt_busReadBuffer _ _).1 hatu
    exact hlast rfl
  by_cases hop : op = .rfTransmitBuffer
  swap
  · have hidle := (micro_rfState hrf ha hu).resolve_right fun h => hop h.1
    exact inv_idle hdata' (following_fgInv hop hatu) (by simpa using hidle)
  subst hop
  by_cases hk : k = 4
  · subst hk
    cases rfTest_of_wait ha
    cases hu
    exact inv_idle hdata' (by simp [following_wait, State.busy, hrf]) (by simpa using hrf)
  have hk4 : k < 4 := by
    have := microStep_lt ha
    simp only [programOf, rfTransmitBufferProgram, List.length_cons, List.length_nil] at this
    omega
  have hnext := transmit_fgAt_succ hat hk4 ha hu
  rcases micro_rfState hrf ha hu with hidle | ⟨-, rfl, hstart⟩
  · rw [following_transmit hk4 fun _ => hidle] at hdata' ⊢
    exact inv_idle hdata' hnext hidle
  · rw [following_transmit (by omega) (by omega)] at hdata' ⊢
    obtain ⟨-, ⟨hlen1, hfits⟩, hbuf, hlen⟩ := (fgAt_rfTransmitBuffer _ _).1 hnext
    refine ⟨hdata', hnext, .inr rfl, .inr ⟨?_, ?_, ?_⟩⟩
    · rw [goto_txLen, hlen (by omega)]
      exact hlen1
    · rw [goto_txLen, goto_txBuf, hlen (by omega), hbuf (by omega)]
      exact hfits
    · simp [State.CountersOk, hstart]

/-! ### The tick -/

theorem leadIn_pos {s : State} (h : s.DataInv) : 1 ≤ s.params.leadInTicks := by
  obtain ⟨hp, -⟩ := h
  simp only [Params.wf, Bool.and_eq_true, decide_eq_true_eq] at hp
  omega

/-- Each tick rule leaves the counters as the phase it leads to has them (R136 to R141). -/
theorem tickHandler_radioInv {s t : State} (hlead : 1 ≤ s.params.leadInTicks) (hs : s.RadioInv)
    (h : tickHandler s = .next t) : t.RadioInv := by
  rcases hs with hidle | ⟨hlen, hfits, hcount⟩
  · simp only [tickHandler, hidle, tickIdle] at h
    cases h
    exact .inl hidle
  cases hrf : s.rfState with
  | IDLE =>
    simp only [tickHandler, hrf, tickIdle] at h
    cases h
    exact .inl hrf
  | START =>
    simp only [tickHandler, hrf, tickStart] at h
    cases h
    exact .inr ⟨hlen, hfits, rfl, rfl, hlead⟩
  | LEAD_IN =>
    simp only [tickHandler, hrf, tickLeadIn] at h
    cases h
    simp only [State.CountersOk, hrf] at hcount
    obtain ⟨hbyte, hbit, hlead⟩ := hcount
    refine .inr ⟨hlen, hfits, ?_⟩
    by_cases hlast : s.leadinCnt + 1 = s.params.leadInTicks
    · simp only [State.CountersOk, if_pos hlast]
      exact ⟨hbyte ▸ hlen, hbit ▸ Nat.zero_le 7, hlast⟩
    · simp only [State.CountersOk, if_neg hlast, rfSet_params]
      exact ⟨hbyte, hbit, by omega⟩
  | BIT_PHASE1 =>
    simp only [tickHandler, hrf, tickBitPhase1] at h
    split at h
    · cases h
    · split at h
      · cases h
      · cases h
        simp only [State.CountersOk, hrf] at hcount
        exact .inr ⟨hlen, hfits, hcount⟩
  | BIT_PHASE2 =>
    simp only [tickHandler, hrf, tickBitPhase2] at h
    cases h
    simp only [State.CountersOk, hrf] at hcount
    obtain ⟨hbyte, hbit, hlead⟩ := hcount
    refine .inr ⟨hlen, hfits, ?_⟩
    by_cases hdone : s.bitIdx + 1 = 8
    · by_cases hend : s.byteIdx + 1 = s.txLen
      · simp only [State.CountersOk, if_pos hdone, if_pos hend]
        exact ⟨hend, trivial, hlead⟩
      · simp only [State.CountersOk, if_pos hdone, if_neg hend, rfSet_txLen]
        exact ⟨by omega, Nat.zero_le 7, hlead⟩
    · simp only [State.CountersOk, if_neg hdone, if_neg hbyte.ne]
      exact ⟨hbyte, by omega, hlead⟩
  | END =>
    simp only [tickHandler, hrf, tickEnd] at h
    cases h
    exact .inl rfl

theorem tickHandler_idle {s t : State} (hrf : s.rfState = .IDLE) (h : tickHandler s = .next t) : t = s := by
  simp only [tickHandler, hrf, tickIdle] at h
  cases h
  rfl

theorem tick_inv {s t : State} (hs : s.Inv) (h : tickHandler s = .next t) : t.Inv := by
  obtain ⟨hdata, hfg, hport, hradio⟩ := id hs
  by_cases hrf : s.rfState = .IDLE
  · rwa [tickHandler_idle hrf h]
  have hradio' := tickHandler_radioInv (leadIn_pos hdata) hradio h
  have hwait := hport.resolve_left hrf
  have hframe := tickHandler_frame h
  refine ⟨?_, ?_, .inr ?_, hradio'⟩
  · rw [hframe]; exact hdata
  · rw [hframe]; exact hfg
  · rw [hframe]; exact hwait

/-! ### Every step -/

/-- At `READY` no transmission is in flight (R21 item 5). -/
theorem inv_ready_idle {s : State} (hs : s.Inv) (hpc : s.fgPc = .ready) : s.rfState = .IDLE := by
  obtain ⟨-, -, hport, -⟩ := hs
  exact hport.resolve_right (by simp [hpc])

theorem fitTo_lt (n v : Nat) : fitTo n v < 2 ^ n := Nat.mod_lt _ (Nat.two_pow_pos n)

theorem moves_inv {a : Agent} {s t : State} (hs : s.Inv) (h : Moves a s t) : t.Inv := by
  obtain ⟨hdata, hfg, hport, hradio⟩ := id hs
  obtain ⟨hp, hptr, hlen, hk, hbuf, htx, hwf, hbelow, hst⟩ := id hdata
  cases h with
  | rest => exact hs
  | refuse hq hpc =>
    have hidle := inv_ready_idle hs hpc
    exact inv_idle ⟨hp, hptr, hlen, hk, hbuf, htx, hwf, hbelow, (by decide : statusRefused ≠ 3)⟩ (fgInv_ready hpc)
      hidle
  | issue i hq hpc =>
    have hidle := inv_ready_idle hs hpc
    refine inv_idle (issued_dataInv hdata) (issued_fgInv hpc) ?_
    rw [issued_frame]
    exact hidle
  | writePtr hq hpc =>
    have hidle := inv_ready_idle hs hpc
    exact inv_idle ⟨hp, fitTo_lt _ _, hlen, hk, hbuf, htx, hwf, hbelow, hst⟩ (fgInv_ready hpc) hidle
  | writeLen hq hpc =>
    have hidle := inv_ready_idle hs hpc
    exact inv_idle ⟨hp, hptr, fitTo_lt _ _, hk, hbuf, htx, hwf, hbelow, hst⟩ (fgInv_ready hpc) hidle
  | setGie hq => exact hs
  | store hq =>
    exact ⟨⟨hp, hptr, hlen, hk, hbuf, htx, Memory.wf_write hwf, Memory.below_write (fitTo_lt _ _) hbelow, hst⟩, hfg,
      hport, hradio⟩
  | micro hpc ha hu => exact micro_inv hs hpc ha hu
  | tick _ ht => exact tick_inv hs ht

/-- Settles O53: the launch values are in range, and no operation or transmission is in progress. -/
theorem resetMeetsTheInvariant : Obligations.ResetMeetsTheInvariant := by
  have hdata : State.reset.DataInv := by
    unfold State.DataInv
    decide
  exact inv_idle hdata (fgInv_ready rfl) rfl

/-- Settles O54: every move keeps the invariant, and the choice of who moves does not touch it. -/
theorem stepKeepsTheInvariant : Obligations.StepKeepsTheInvariant := fun _ _ hs h =>
  step_keeps (fun _ _ _ _ hs => hs) (fun _ _ _ => moves_inv) hs h

end Sys2Proof.Machine
end

section
/-! SUPPORT. The line invariant holds at reset and every step keeps it (rule R21 items 2 and 4, rule R108). -/

namespace Sys2Proof.Machine

/-! ### The drive state of a line through a micro-step -/

/-- The drive state an action gives a line, if it writes it. -/
def Action.sets (a : Action) (X : Line) (s : State) : Option Drive :=
  match a with
  | .release Y => if Y = X then some .Z else none
  | .pullup Y => if Y = X then some .PU else none
  | .low Y => if Y = X then some .D0 else none
  | .sda b => if X = .SDA then (sourceBit b s).map fun v => if v then .Z else .D0 else none
  | _ => none

theorem action_drive {a : Action} {s u : State} (h : a.run s = .next u) (X : Line) :
    u.drive X = (a.sets X s).getD (s.drive X) := by
  cases a with
  | release Y => cases h; cases Y <;> cases X <;> rfl
  | pullup Y => cases h; cases Y <;> cases X <;> rfl
  | low Y => cases h; cases Y <;> cases X <;> rfl
  | sda b =>
    simp only [Action.run] at h
    split at h
    · next v hv => cases h; cases X <;> cases v <;> simp [State.putBit, Action.sets, hv]
    · cases h
  | sampleSda => cases h; rw [pinRead_frame s .SDA]; cases X <;> rfl
  | storeByte => obtain ⟨-, rfl⟩ := State.memWrite_next h; cases X <;> rfl
  | _ => cases h; cases X <;> rfl

/-- The drive state of a line at micro-step `k` of an operation, where the micro-steps before it fix it. -/
def expectedDrive (op : Op) (k : Nat) (X : Line) (s : State) : Option Drive :=
  match X with
  | .SCL => expectedSCL op k
  | .SDA => expectedSDA op k s

/-- A state in which bytes remain to be read, or none does: all that the lines of `expectedSDA` read of a state. -/
def withBytesLeft (more : Bool) : State := { State.reset with argLen := if more then 2 else 1 }

theorem expectedDrive_bytesLeft (op : Op) (k : Nat) (X : Line) (s : State) :
    expectedDrive op k X s = expectedDrive op k X (withBytesLeft (decide (s.k + 1 < s.argLen))) := by
  cases X with
  | SCL => rfl
  | SDA =>
    cases op with
    | busReadBuffer =>
      by_cases h : s.k + 1 < s.argLen <;> simp [expectedDrive, expectedSDA, withBytesLeft, State.reset, h]
    | _ => rfl

theorem sets_bytesLeft {a : Action} (X : Line) (s : State) (h : a ≠ .sda .shiftBit) :
    a.sets X s = a.sets X (withBytesLeft (decide (s.k + 1 < s.argLen))) := by
  cases a with
  | sda b =>
    cases b with
    | one => rfl
    | shiftBit => exact absurd rfl h
    | ackBit => by_cases h : s.k + 1 < s.argLen <;> simp [Action.sets, sourceBit, withBytesLeft, State.reset, h]
  | _ => rfl

/-- What a line is to be at the next micro-step, this one sets or finds. -/
theorem expectedDrive_succ {op : Op} {k k' : Nat} {a : Action} {X : Line} {d : Drive} (s : State)
    (ha : (programOf op)[k]? = some a) (hk' : k' ∈ successors op k) (hd : expectedDrive op k' X s = some d) :
    (a.sets X s).or (expectedDrive op k X s) = some d := by
  have h := microStep_forall
    (P := fun op k a => ∀ more, ∀ k' ∈ successors op k, ∀ d ∈ expectedDrive op k' X (withBytesLeft more),
      (a = .sda .shiftBit → X = .SCL) ∧
        (a.sets X (withBytesLeft more)).or (expectedDrive op k X (withBytesLeft more)) = some d)
    (by intro op; cases op <;> cases X <;> decide) ha
  rw [expectedDrive_bytesLeft] at hd
  obtain ⟨hbit, h⟩ := h _ k' hk' d hd
  have hsets : a.sets X s = a.sets X (withBytesLeft (decide (s.k + 1 < s.argLen))) := by
    by_cases ha : a = .sda .shiftBit
    · rw [ha, hbit ha]
      rfl
    · exact sets_bytesLeft X s ha
  rw [hsets, expectedDrive_bytesLeft op k X s, h]

/-- Only the ninth bit of `BUS_READ_BUFFER` makes the lines depend on the byte counter. -/
theorem expectedDrive_congr {op : Op} {k : Nat} {X : Line} {s t : State}
    (h : op = .busReadBuffer → 10 ≤ k → t.k = s.k ∧ t.argLen = s.argLen) :
    expectedDrive op k X t = expectedDrive op k X s := by
  cases X with
  | SCL => rfl
  | SDA =>
    cases op with
    | busReadBuffer =>
      by_cases hk : 10 ≤ k
      · obtain ⟨hbyte, hlen⟩ := h rfl hk
        simp only [expectedDrive, expectedSDA, hbyte, hlen]
      · simp only [expectedDrive, expectedSDA, show k ≤ 9 by omega, if_true]
    | _ => rfl

theorem eq_getD_of_or {a e : Option Drive} {d x : Drive} (h : a.or e = some d) (he : ∀ d, e = some d → x = d) :
    a.getD x = d := by
  cases a with
  | none => exact he d (by simpa using h)
  | some y => simpa using h

theorem sets_pullup {a : Action} {X : Line} {s : State} (h : a.sets X s = some .PU) : a = .pullup X := by
  cases a with
  | release Y => simp [Action.sets] at h
  | pullup Y => simpa [Action.sets] using h
  | low Y => simp [Action.sets] at h
  | sda b =>
    simp only [Action.sets, Option.ite_none_right_eq_some, Option.map_eq_some_iff] at h
    obtain ⟨-, v, -, hv⟩ := h
    split at hv <;> cases hv
  | _ => simp [Action.sets] at h

/-- The micro-step of `start` that releases a line after its pull-up (R87, R102). -/
def releasedAt (X : Line) : Nat :=
  match X with
  | .SDA => 1
  | .SCL => 4

theorem pullup_at {op : Op} {k : Nat} {X : Line} (ha : (programOf op)[k]? = some (.pullup X)) :
    op = .busStart ∧ k + 1 = releasedAt X :=
  microStep_forall (P := fun op k a => a = .pullup X → op = .busStart ∧ k + 1 = releasedAt X)
    (by intro op; cases op <;> cases X <;> decide) ha rfl

/-! ### The line invariant -/

/-- The line invariant, one line at a time. -/
theorem linesInv_iff (s : State) :
    s.LinesInv ↔ (s.linesUnmoved → s.linesAtRest) ∧
      ∀ X, (∀ op k, s.fgPc = .running op k → ∀ d, expectedDrive op k X s = some d → s.drive X = d) ∧
        (s.drive X = .PU → s.fgPc = .running .busStart (releasedAt X)) := by
  constructor
  · rintro ⟨hrest, hat, hpuSDA, hpuSCL⟩
    refine ⟨hrest, fun X => ?_⟩
    cases X with
    | SCL => exact ⟨fun op k hpc => (hat op k hpc).1, hpuSCL⟩
    | SDA => exact ⟨fun op k hpc => (hat op k hpc).2, hpuSDA⟩
  · rintro ⟨hrest, hline⟩
    exact ⟨hrest, fun op k hpc => ⟨(hline .SCL).1 op k hpc, (hline .SDA).1 op k hpc⟩, (hline .SDA).2, (hline .SCL).2⟩

/-- Where no bus operation has moved the lines, the line invariant says that they are at rest. -/
theorem linesInv_unmoved {s : State} (h : s.linesUnmoved) : s.LinesInv ↔ s.linesAtRest := by
  refine ⟨fun hs => hs.1 h, fun hrest => ⟨fun _ => hrest, fun op k hpc => ?_, ?_, ?_⟩⟩
  · simp only [State.linesUnmoved, hpc] at h
    rcases h with rfl | rfl | rfl | rfl
    · cases op <;> simp [expectedSCL, expectedSDA]
    · simp [expectedSCL, expectedSDA]
    · simp [expectedSCL, expectedSDA]
    · simp [expectedSCL, expectedSDA]
  · rcases hrest with ⟨-, h⟩ | ⟨-, h⟩ | ⟨-, h⟩ <;> simp [h]
  · rcases hrest with ⟨h, -⟩ | ⟨h, -⟩ | ⟨h, -⟩ <;> simp [h]

theorem linesAtRest_congr {s t : State} (hscl : t.drvSCL = s.drvSCL) (hsda : t.drvSDA = s.drvSDA) :
    t.linesAtRest ↔ s.linesAtRest := by
  simp only [State.linesAtRest, hscl, hsda]

theorem linesAtRest_iff (s : State) :
    s.linesAtRest ↔ (s.drive .SCL = .Z ∧ s.drive .SDA = .Z) ∨ (s.drive .SCL = .D0 ∧ s.drive .SDA = .D0) ∨
      (s.drive .SCL = .D0 ∧ s.drive .SDA = .Z) := Iff.rfl

/-- Where a bus operation completes, the micro-steps before have left the lines in a rest state. -/
theorem lines_completed {s u : State} {op : Op} {k : Nat} {a : Action}
    (hbus : op ≠ .rfInit ∧ op ≠ .rfTransmitBuffer ∧ op ≠ .rfTransmitPacket)
    (hat : ∀ X d, expectedDrive op k X s = some d → s.drive X = d)
    (ha : (programOf op)[k]? = some a) (hu : a.run s = .next u) (hend : Completes op k u) : u.linesAtRest := by
  have hSCL := hat .SCL
  have hSDA := hat .SDA
  rw [linesAtRest_iff, action_drive hu, action_drive hu]
  cases op with
  | busInit =>
    obtain rfl : k = 1 := Nat.succ.inj hend
    cases ha
    exact .inl ⟨hSCL _ rfl, rfl⟩
  | busStart =>
    obtain rfl : k = 8 := Nat.succ.inj hend
    cases ha
    exact .inr (.inl ⟨rfl, hSDA _ rfl⟩)
  | busStop =>
    obtain rfl : k = 5 := Nat.succ.inj hend
    cases ha
    exact .inl ⟨hSCL _ rfl, hSDA _ rfl⟩
  | busWriteByte =>
    obtain rfl : k = 12 := Nat.succ.inj hend
    cases ha
    exact .inr (.inr ⟨rfl, hSDA _ rfl⟩)
  | busReadByte =>
    obtain rfl : k = 12 := Nat.succ.inj hend
    cases ha
    exact .inr (.inr ⟨rfl, hSDA _ rfl⟩)
  | busReadBuffer =>
    obtain ⟨rfl, hmore⟩ := hend
    cases ha
    cases hu
    exact .inr (.inr ⟨rfl, hSDA .Z (if_neg hmore)⟩)
  | rfInit => exact absurd rfl hbus.1
  | rfTransmitBuffer => exact absurd rfl hbus.2.1
  | rfTransmitPacket => exact absurd rfl hbus.2.2

/-- A micro-step of a radio operation leaves the lines at rest. -/
theorem micro_linesInv_radio {s u : State} {op : Op} {k : Nat} {a : Action} (hs : s.LinesInv)
    (hop : op = .rfInit ∨ op = .rfTransmitBuffer ∨ op = .rfTransmitPacket)
    (hpc : s.fgPc = .running op k) (ha : (programOf op)[k]? = some a) (hu : a.run s = .next u) :
    (following op k u).LinesInv := by
  have hupc : u.fgPc = .running op k := by rw [action_frame hu, hpc]
  have hlines := (action_writes hu).busPins.resolve_right fun hw => by
    have := writesBusPin_at ha hw
    tauto
  have hunmoved : (following op k u).linesUnmoved := by
    rcases following_fgPc hupc (microStep_lt ha) with ⟨k', -, h⟩ | ⟨h, -⟩
    · simp only [State.linesUnmoved, h]
      exact .inr hop
    · simp only [State.linesUnmoved, h]
  rw [linesInv_unmoved hunmoved, linesAtRest_congr (s := s) (by simpa using hlines.1) (by simpa using hlines.2)]
  refine hs.1 ?_
  simp only [State.linesUnmoved, hpc]
  exact .inr hop

/-- A micro-step of a bus operation leaves the lines as its successor expects them, or at rest where it is the last. -/
theorem micro_linesInv_bus {s u : State} {op : Op} {k : Nat} {a : Action} (hs : s.LinesInv)
    (hbus : op ≠ .rfInit ∧ op ≠ .rfTransmitBuffer ∧ op ≠ .rfTransmitPacket)
    (hpc : s.fgPc = .running op k) (ha : (programOf op)[k]? = some a) (hu : a.run s = .next u) :
    (following op k u).LinesInv := by
  obtain ⟨-, hline⟩ := (linesInv_iff s).1 hs
  have hat X := (hline X).1 op k hpc
  have hupc : u.fgPc = .running op k := by rw [action_frame hu, hpc]
  have hdrive X : (following op k u).drive X = (a.sets X s).getD (s.drive X) := by
    rw [← action_drive hu, following_frame]
    cases X <;> rfl
  rcases following_fgPc hupc (microStep_lt ha) with ⟨k', hk', hpc'⟩ | ⟨hready, hend⟩
  · refine (linesInv_iff _).2 ⟨fun hunmoved => ?_, fun X => ⟨fun op₁ k₁ h d hd => ?_, fun h => ?_⟩⟩
    · simp only [State.linesUnmoved, hpc'] at hunmoved
      have := successors_pos ha hk'
      tauto
    · rw [hpc'] at h
      cases h
      rw [expectedDrive_congr (s := s)] at hd
      · rw [hdrive]
        exact eq_getD_of_or (expectedDrive_succ s ha hk' hd) (hat X)
      · rintro rfl hlate
        rw [following, busReadBufferAfter_k hpc' hlate, busReadBufferAfter_frame, action_frame hu]
        exact ⟨rfl, rfl⟩
    · rw [hdrive] at h
      cases hset : a.sets X s with
      | none =>
        rw [hset] at h
        have hpull := (hline X).2 h
        rw [hpc] at hpull
        cases hpull
        cases X <;> cases ha <;> cases hset
      | some d =>
        rw [hset] at h
        cases h
        cases sets_pullup hset
        obtain ⟨rfl, hk⟩ := pullup_at ha
        rw [hpc', ← hk, eq_of_mem_advance hk']
  · rw [linesInv_unmoved (by simp [State.linesUnmoved, hready]), linesAtRest_congr (s := u) (by simp) (by simp)]
    exact lines_completed hbus hat ha hu hend

theorem micro_linesInv {s u : State} {op : Op} {k : Nat} {a : Action} (hs : s.LinesInv)
    (hpc : s.fgPc = .running op k) (ha : (programOf op)[k]? = some a) (hu : a.run s = .next u) :
    (following op k u).LinesInv := by
  by_cases hop : op = .rfInit ∨ op = .rfTransmitBuffer ∨ op = .rfTransmitPacket
  · exact micro_linesInv_radio hs hop hpc ha hu
  · exact micro_linesInv_bus hs (by tauto) hpc ha hu

theorem issued_fgPc (i : Instr) (s : State) :
    (issued i s).fgPc = s.fgPc ∨ (issued i s).fgPc = .ready ∨ (issued i s).fgPc = .running (opOf i) 0 := by
  cases i with
  | busReadBuffer =>
    simp only [issued]
    unfold State.acceptReadBuffer
    split
    · exact .inr (.inl rfl)
    · split
      · exact .inr (.inr rfl)
      · exact .inl rfl
  | rfTransmitBuffer =>
    simp only [issued]
    unfold State.acceptTransmit
    split
    · exact .inl rfl
    · split
      · exact .inr (.inr rfl)
      · exact .inl rfl
  | rfTransmitPacket => exact .inl rfl
  | _ => exact .inr (.inr rfl)

theorem linesUnmoved_ready {s : State} (h : s.fgPc = .ready) : s.linesUnmoved := by simp [State.linesUnmoved, h]

theorem issued_linesUnmoved {i : Instr} {s : State} (h : s.fgPc = .ready) : (issued i s).linesUnmoved := by
  rcases issued_fgPc i s with hpc | hpc | hpc
  · exact linesUnmoved_ready (hpc.trans h)
  · exact linesUnmoved_ready hpc
  · simp [State.linesUnmoved, hpc]

theorem moves_linesInv {a : Agent} {s t : State} (hs : s.LinesInv) (h : Moves a s t) : t.LinesInv := by
  have hrest (hpc : s.fgPc = .ready) : s.linesAtRest := (linesInv_unmoved (linesUnmoved_ready hpc)).1 hs
  cases h with
  | rest => exact hs
  | refuse hq hpc =>
    rw [linesInv_unmoved (linesUnmoved_ready (by exact hpc))]
    exact hrest hpc
  | issue i hq hpc =>
    rw [linesInv_unmoved (issued_linesUnmoved (by exact hpc)), issued_frame]
    exact hrest hpc
  | writePtr hq hpc =>
    rw [linesInv_unmoved (linesUnmoved_ready (by exact hpc))]
    exact hrest hpc
  | writeLen hq hpc =>
    rw [linesInv_unmoved (linesUnmoved_ready (by exact hpc))]
    exact hrest hpc
  | setGie hq => exact hs
  | store hq => exact hs
  | micro hpc ha hu => exact micro_linesInv hs hpc ha hu
  | tick _ ht =>
    rw [tickHandler_frame ht]
    exact hs

/-- Settles O56: the launch drive states are the idle rest state. -/
theorem resetMeetsTheLineInvariant : Obligations.ResetMeetsTheLineInvariant :=
  (linesInv_unmoved (linesUnmoved_ready rfl)).2 (.inl ⟨rfl, rfl⟩)

/-- Settles O57: what a line is to be at the next micro-step, this one sets or finds; elsewhere the lines rest. -/
theorem stepKeepsTheLineInvariant : Obligations.StepKeepsTheLineInvariant := fun _ _ hs h =>
  step_keeps (fun _ _ _ _ hs => hs) (fun _ _ _ => moves_linesInv) hs h

end Sys2Proof.Machine
end

section
/-! SUPPORT. No step reads an unspecified element (rules R12, R15, R22, R191). -/

namespace Sys2Proof.Machine

/-! ### Known elements -/

/-- Which of the elements the spec leaves unspecified two states are known to agree on, in the order of `Agree`. -/
structure Known where
  shift : Bool
  sample : Bool
  byteCount : Bool
  sda : Bool
  txBuf : Bool
  txLen : Bool
  counters : Bool
  level : Bool

/-- Every element known in the one is known in the other. -/
def Known.within (K L : Known) : Bool :=
  (!K.shift || L.shift) && (!K.sample || L.sample) && (!K.byteCount || L.byteCount) && (!K.sda || L.sda) &&
    (!K.txBuf || L.txBuf) && (!K.txLen || L.txLen) && (!K.counters || L.counters) && (!K.level || L.level)

/-- The elements that `Agree` asks two states to agree on where the first one stands. -/
def State.needs (s : State) : Known where
  shift := s.fgPc.usesShift
  sample := s.fgPc.usesSample
  byteCount := s.fgPc.usesByteCount
  sda := s.fgPc.usesSDA
  txBuf := s.usesTxBuf
  txLen := s.usesTxLen
  counters := s.usesCounters
  level := s.rfState == .BIT_PHASE2

/-- `needs` reads `fg_pc` and `rf_state` only. -/
def needsAt (pc : FgPc) (rf : RfState) : Known := { State.reset with fgPc := pc, rfState := rf : State }.needs

theorem needs_eq (s : State) : s.needs = needsAt s.fgPc s.rfState := rfl

/-- Two states agree on everything specified wherever they stand. -/
abbrev SameSpecified (s t : State) : Prop :=
  t = { s with
    drvSCL := t.drvSCL
    drvSDA := t.drvSDA
    drvRF := t.drvRF
    sh := t.sh
    i := t.i
    k := t.k
    sample := t.sample
    resStatus := t.resStatus
    resAck := t.resAck
    resByte := t.resByte
    txBuf := t.txBuf
    txLen := t.txLen
    byteIdx := t.byteIdx
    bitIdx := t.bitIdx
    leadinCnt := t.leadinCnt }

/-- `Agree` with the elements known in place of those that are needed. -/
structure AgreeOn (K : Known) (s t : State) : Prop where
  same : SameSpecified s t
  shift : K.shift = true → t.sh = s.sh ∧ t.i = s.i
  sample : K.sample = true → t.sample = s.sample
  byteCount : K.byteCount = true → t.k = s.k
  sda : K.sda = true → t.drvSDA = s.drvSDA
  txBuf : K.txBuf = true → t.txBuf = s.txBuf
  txLen : K.txLen = true → t.txLen = s.txLen
  counters : K.counters = true → t.byteIdx = s.byteIdx ∧ t.bitIdx = s.bitIdx ∧ t.leadinCnt = s.leadinCnt
  level : K.level = true → t.drvRF = s.drvRF

/-- `Agree` is agreement on the elements needed where the first state stands. -/
theorem agree_iff (s t : State) : Agree s t ↔ AgreeOn s.needs s t := by
  have hlevel : (s.needs.level = true) = (s.rfState = .BIT_PHASE2) := by simp [State.needs]
  constructor
  · rintro ⟨hsame, hshift, hsample, hcount, hsda, hbuf, hlen, hctr, hlev⟩
    exact ⟨hsame, hshift, hsample, hcount, hsda, hbuf, hlen, hctr, by rwa [hlevel]⟩
  · rintro ⟨hsame, hshift, hsample, hcount, hsda, hbuf, hlen, hctr, hlev⟩
    exact ⟨hsame, hshift, hsample, hcount, hsda, hbuf, hlen, hctr, by rwa [hlevel] at hlev⟩

theorem AgreeOn.mono {K L : Known} {s t : State} (h : AgreeOn L s t) (hKL : K.within L = true) : AgreeOn K s t := by
  simp only [Known.within, Bool.and_eq_true, Bool.or_eq_true, Bool.not_eq_true', ← Bool.not_eq_true] at hKL
  obtain ⟨⟨⟨⟨⟨⟨⟨h1, h2⟩, h3⟩, h4⟩, h5⟩, h6⟩, h7⟩, h8⟩ := hKL
  exact ⟨h.same, fun hk => h.shift (h1.resolve_left (absurd hk)), fun hk => h.sample (h2.resolve_left (absurd hk)),
    fun hk => h.byteCount (h3.resolve_left (absurd hk)), fun hk => h.sda (h4.resolve_left (absurd hk)),
    fun hk => h.txBuf (h5.resolve_left (absurd hk)), fun hk => h.txLen (h6.resolve_left (absurd hk)),
    fun hk => h.counters (h7.resolve_left (absurd hk)), fun hk => h.level (h8.resolve_left (absurd hk))⟩

/-- What an action reads is known. -/
def Action.reads (a : Action) (K : Known) : Bool :=
  match a with
  | .sampleSda => K.sda
  | .sda .shiftBit => K.shift
  | .sda .ackBit => K.byteCount
  | .storeByte => K.shift && K.byteCount
  | _ => true

/-- What is known after an action. -/
def Action.gives (a : Action) (K : Known) : Known :=
  match a with
  | .release .SDA => { K with sda := true }
  | .pullup .SDA => { K with sda := true }
  | .low .SDA => { K with sda := true }
  | .sda _ => { K with sda := true }
  | .sampleSda => { K with sample := true }
  | .rfSet _ => { K with level := true }
  | .writeTxBuf => { K with txBuf := true }
  | .writeTxLen => { K with txLen := true }
  | _ => K

/-- Two answers match: next states that stand in a relation, or the same stop. -/
def AnswersMatch (R : State → State → Prop) (a b : Result) : Prop :=
  match a, b with
  | .next s, .next t => R s t
  | .fault e, .fault f => e = f
  | .refused e, .refused f => e = f
  | _, _ => False

/-! ### What each update of the state keeps known -/

theorem AgreeOn.goto {K : Known} {s t : State} (h : AgreeOn K s t) (op : Op) (k : Nat) :
    AgreeOn K (s.goto op k) (t.goto op k) :=
  { h with same := by rw [h.same]; rfl }

theorem AgreeOn.complete {K : Known} {s t : State} (h : AgreeOn K s t) (status : BitVec 2) :
    AgreeOn K (s.complete status) (t.complete status) :=
  { h with same := by rw [h.same]; rfl }

theorem AgreeOn.refuse {K : Known} {s t : State} (h : AgreeOn K s t) : AgreeOn K s.refuse t.refuse :=
  { h with same := by rw [h.same]; rfl }

theorem AgreeOn.setSCL {K : Known} {s t : State} (h : AgreeOn K s t) (d : Drive) :
    AgreeOn K (s.setDrive .SCL d) (t.setDrive .SCL d) :=
  { h with same := by rw [h.same]; rfl }

theorem AgreeOn.setSDA {K : Known} {s t : State} (h : AgreeOn K s t) (d : Drive) :
    AgreeOn { K with sda := true } (s.setDrive .SDA d) (t.setDrive .SDA d) :=
  { h with same := by rw [h.same]; rfl, sda := fun _ => rfl }

theorem AgreeOn.rfSet {K : Known} {s t : State} (h : AgreeOn K s t) (v : Level) :
    AgreeOn { K with level := true } (s.rfSet v) (t.rfSet v) :=
  { h with same := by rw [h.same]; rfl, level := fun _ => rfl }

theorem AgreeOn.beginWrite {K : Known} {s t : State} (h : AgreeOn K s t) :
    AgreeOn { K with shift := true } s.beginWrite t.beginWrite :=
  { h with same := by rw [h.same]; rfl, shift := fun _ => ⟨by rw [h.same]; rfl, rfl⟩ }

theorem AgreeOn.beginRead {K : Known} {s t : State} (h : AgreeOn K s t) :
    AgreeOn { K with shift := true } s.beginRead t.beginRead :=
  { h with same := by rw [h.same]; rfl, shift := fun _ => ⟨rfl, rfl⟩ }

theorem AgreeOn.takeBit {K : Known} {s t : State} (h : AgreeOn K s t) (hshift : K.shift = true)
    (hsample : K.sample = true) : AgreeOn K s.takeBit t.takeBit := by
  obtain ⟨hsh, hi⟩ := h.shift hshift
  have hbit : t.takeBit.sh = s.takeBit.sh := by rw [takeBit_sh, takeBit_sh, hsh, h.sample hsample]
  exact { h with same := by rw [h.same]; rfl, shift := fun _ => ⟨hbit, hi⟩ }

theorem AgreeOn.withI {K : Known} {s t : State} (h : AgreeOn K s t) (i : BitVec 4) :
    AgreeOn K { s with i := i } { t with i := i } :=
  { h with same := by rw [h.same], shift := fun hk => ⟨(h.shift hk).1, rfl⟩ }

theorem AgreeOn.withK {K : Known} {s t : State} (h : AgreeOn K s t) (k : Nat) :
    AgreeOn { K with byteCount := true } { s with k := k } { t with k := k } :=
  { h with same := by rw [h.same], byteCount := fun _ => rfl }

theorem AgreeOn.dropByteWork {K : Known} {s t : State} (h : AgreeOn K s t) :
    AgreeOn K s.dropByteWork t.dropByteWork := by
  have hctr : t.freeCtr = s.freeCtr := by rw [h.same]
  exact { h with
    same := by rw [h.same]; rfl
    shift := fun _ => ⟨congrArg Config.freeByte hctr, congrArg Config.freeNibble hctr⟩
    sample := fun _ => congrArg (fun n => levelOfBit (Config.freeBit n)) hctr }

theorem AgreeOn.dropBufferWork {K : Known} {s t : State} (h : AgreeOn K s t) :
    AgreeOn K s.dropBufferWork t.dropBufferWork := by
  have hk : t.dropBufferWork.k = s.dropBufferWork.k := by rw [h.same]; rfl
  exact { h.dropByteWork with same := by rw [h.same]; rfl, byteCount := fun _ => hk }

/-! ### The actions -/

/-- Two states that agree get the same answer of ENV. -/
theorem envAnswer_same {s t : State} (h : SameSpecified s t) :
    ∃ l q n, s.envAnswer = (l, { s with envQ := q, freeCtr := n }) ∧
      t.envAnswer = (l, { t with envQ := q, freeCtr := n }) := by
  have hq : t.envQ = s.envQ := by rw [h]
  have hn : t.freeCtr = s.freeCtr := by rw [h]
  unfold State.envAnswer
  rw [hq, hn]
  cases s.envQ with
  | nil => exact ⟨_, [], _, rfl, rfl⟩
  | cons l q => exact ⟨l, q, _, rfl, by rw [← hn]⟩

theorem pinRead_low {s : State} {X : Line} (h : s.drive X = .D0) : s.pinRead X = (.L, s) := by
  simp [State.pinRead, h]

theorem pinRead_notLow {s : State} {X : Line} (h : s.drive X ≠ .D0) : s.pinRead X = s.envAnswer := by
  unfold State.pinRead
  split
  · next hd => exact absurd hd h
  · rfl
  · rfl

theorem pinRead_same {s t : State} (h : SameSpecified s t) (hsda : t.drvSDA = s.drvSDA) :
    ∃ l q n, s.pinRead .SDA = (l, { s with envQ := q, freeCtr := n }) ∧
      t.pinRead .SDA = (l, { t with envQ := q, freeCtr := n }) := by
  by_cases hd : s.drvSDA = .D0
  · have hq : t.envQ = s.envQ := by rw [h]
    have hn : t.freeCtr = s.freeCtr := by rw [h]
    exact ⟨.L, s.envQ, s.freeCtr, pinRead_low hd, by rw [pinRead_low (X := .SDA) (hsda.trans hd), ← hq, ← hn]⟩
  · rw [pinRead_notLow (X := .SDA) hd, pinRead_notLow (X := .SDA) (by rwa [drive_SDA, hsda])]
    exact envAnswer_same h

theorem sourceBit_agreeOn {b : BitSource} {K : Known} {s t : State} (h : AgreeOn K s t)
    (hr : (Action.sda b).reads K = true) : sourceBit b t = sourceBit b s := by
  cases b with
  | one => rfl
  | shiftBit =>
    obtain ⟨hsh, hi⟩ := h.shift hr
    simp only [sourceBit, hsh, hi]
  | ackBit =>
    have hlen : t.argLen = s.argLen := by rw [h.same]
    simp only [sourceBit, h.byteCount hr, hlen]

/-- An action whose reads are known answers alike, and what it writes is known after it. -/
theorem action_agreeOn {a : Action} {K : Known} {s t : State} (h : AgreeOn K s t) (hr : a.reads K = true) :
    AnswersMatch (AgreeOn (a.gives K)) (a.run s) (a.run t) := by
  cases a with
  | release X =>
    cases X with
    | SCL => exact h.setSCL .Z
    | SDA => exact h.setSDA .Z
  | pullup X =>
    cases X with
    | SCL => exact h.setSCL .PU
    | SDA => exact h.setSDA .PU
  | low X =>
    cases X with
    | SCL => exact h.setSCL .D0
    | SDA => exact h.setSDA .D0
  | delay d => exact h
  | sampleSda =>
    obtain ⟨l, q, n, hs, ht⟩ := pinRead_same h.same (h.sda hr)
    simp only [Action.run, hs, ht]
    exact { h with same := by rw [h.same], sample := fun _ => rfl }
  | sda b =>
    simp only [Action.run, sourceBit_agreeOn h hr]
    cases sourceBit b s with
    | none => exact rfl
    | some v =>
      cases v with
      | true => exact h.setSDA .Z
      | false => exact h.setSDA .D0
  | storeByte =>
    simp only [Action.reads, Bool.and_eq_true] at hr
    have hx : storeAddress t = storeAddress s := by
      have hptr : t.argPtr = s.argPtr := by rw [h.same]
      rw [storeAddress, storeAddress, hptr, h.byteCount hr.2]
    have hspace : t.inSpace (storeAddress s) = s.inSpace (storeAddress s) := by rw [h.same]; rfl
    have hmem : t.mem = s.mem := by rw [h.same]
    simp only [Action.run]
    rw [hx, (h.shift hr.1).1]
    unfold State.memWrite
    rw [hspace, hmem]
    split
    · exact { h with same := by rw [h.same] }
    · exact rfl
  | rfSet v => exact h.rfSet v
  | rfWrite v => exact { h with same := by rw [h.same] }
  | rfTest => exact h
  | writeTxBuf => exact { h with same := by rw [h.same], txBuf := fun _ => by rw [h.same] }
  | writeTxLen => exact { h with same := by rw [h.same], txLen := fun _ => by rw [h.same] }
  | timerStart => exact { h with same := by rw [h.same] }

/-- What the register writes and the loops after a micro-step read is known. -/
def readsAfter (op : Op) (k : Nat) (K : Known) : Bool :=
  match op, k with
  | .busWriteByte, 5 => K.shift
  | .busReadByte, 7 => K.shift && K.sample
  | .busReadBuffer, 7 => K.shift && K.sample
  | .busReadBuffer, 13 => K.byteCount
  | .busReadBuffer, 14 => K.byteCount
  | _, _ => true

/-- What is known after what follows a micro-step. -/
def givesAfter (op : Op) (k : Nat) (K : Known) : Known :=
  match op with
  | .busWriteByte => if k = 0 then { K with shift := true } else K
  | .busReadByte => if k = 1 then { K with shift := true } else K
  | .busReadBuffer =>
    if k = 1 then { K with shift := true, byteCount := true } else if k = 14 then { K with shift := true } else K
  | _ => K

theorem straight_agreeOn {K : Known} {s t : State} (op : Op) (p : List Action) (k : Nat) (h : AgreeOn K s t) :
    AgreeOn K (straight op p k s) (straight op p k t) := by
  unfold straight
  split
  · exact h.goto _ _
  · exact h.complete _

theorem busWriteByteAfter_agreeOn {K : Known} {s t : State} {k : Nat} (h : AgreeOn K s t)
    (hr : readsAfter .busWriteByte k K = true) :
    AgreeOn (givesAfter .busWriteByte k K) (busWriteByteAfter k s) (busWriteByteAfter k t) := by
  unfold busWriteByteAfter
  split
  · exact h.beginWrite.goto _ _
  · rw [(h.shift hr).2]
    split
    · exact h.goto _ _
    · exact (h.withI _).goto _ _
  · have hack : AgreeOn K { s with resAck := ackCode s.sample } { t with resAck := ackCode t.sample } :=
      { h with same := by rw [h.same] }
    exact hack.dropByteWork.complete _
  · next hfirst _ _ =>
    rw [givesAfter, if_neg hfirst]
    exact h.goto _ _

/-- The end of a bit loop: the sampled bit is taken in, and the loop goes on or ends (R105, R106). -/
theorem bitLoop_agreeOn {K : Known} {s t : State} (h : AgreeOn K s t) (hr : (K.shift && K.sample) = true) (op : Op)
    (start exit : Nat) :
    AgreeOn K (if s.i = 0 then s.takeBit.goto op exit else { s.takeBit with i := s.i - 1 }.goto op start)
      (if t.i = 0 then t.takeBit.goto op exit else { t.takeBit with i := t.i - 1 }.goto op start) := by
  simp only [Bool.and_eq_true] at hr
  rw [(h.shift hr.1).2]
  split
  · exact (h.takeBit hr.1 hr.2).goto _ _
  · exact ((h.takeBit hr.1 hr.2).withI _).goto _ _

theorem busReadByteAfter_agreeOn {K : Known} {s t : State} {k : Nat} (h : AgreeOn K s t)
    (hr : readsAfter .busReadByte k K = true) :
    AgreeOn (givesAfter .busReadByte k K) (busReadByteAfter k s) (busReadByteAfter k t) := by
  unfold busReadByteAfter
  split
  · exact h.beginRead.goto _ _
  · exact bitLoop_agreeOn h hr _ _ _
  · have hbyte : AgreeOn K { s with resByte := s.sh } { t with resByte := t.sh } := { h with same := by rw [h.same] }
    exact hbyte.dropByteWork.complete _
  · next hfirst _ _ =>
    rw [givesAfter, if_neg hfirst]
    exact h.goto _ _

theorem busReadBufferAfter_agreeOn {K : Known} {s t : State} {k : Nat} (h : AgreeOn K s t)
    (hr : readsAfter .busReadBuffer k K = true) :
    AgreeOn (givesAfter .busReadBuffer k K) (busReadBufferAfter k s) (busReadBufferAfter k t) := by
  unfold busReadBufferAfter
  split
  · exact (h.beginRead.withK 0).goto _ _
  · exact bitLoop_agreeOn h hr _ _ _
  · have hlen : t.argLen = s.argLen := by rw [h.same]
    rw [h.byteCount hr, hlen]
    split
    · exact h.goto _ _
    · exact h.dropBufferWork.complete _
  · rw [h.byteCount hr]
    exact { (h.beginRead.withK (s.k + 1)).goto .busReadBuffer 2 with byteCount := fun _ => rfl }
  · next hfirst _ _ hnext =>
    rw [givesAfter, if_neg hfirst, if_neg hnext]
    exact h.goto _ _

theorem rfTransmitBufferAfter_agreeOn {K : Known} {s t : State} (k : Nat) (h : AgreeOn K s t) :
    AgreeOn K (rfTransmitBufferAfter k s) (rfTransmitBufferAfter k t) := by
  have hbusy : t.busy = s.busy := by rw [h.same]; rfl
  unfold rfTransmitBufferAfter
  rw [hbusy]
  split
  · split
    · exact h.complete _
    · exact h.goto _ _
  · split
    · exact h
    · exact h.complete _
  · exact h.goto _ _

theorem following_agreeOn {op : Op} {k : Nat} {K : Known} {s t : State} (h : AgreeOn K s t)
    (hr : readsAfter op k K = true) : AgreeOn (givesAfter op k K) (following op k s) (following op k t) := by
  cases op with
  | busInit => exact straight_agreeOn _ _ k h
  | busStart => exact straight_agreeOn _ _ k h
  | busStop => exact straight_agreeOn _ _ k h
  | busWriteByte => exact busWriteByteAfter_agreeOn h hr
  | busReadByte => exact busReadByteAfter_agreeOn h hr
  | busReadBuffer => exact busReadBufferAfter_agreeOn h hr
  | rfInit => exact straight_agreeOn _ _ k h
  | rfTransmitBuffer => exact rfTransmitBufferAfter_agreeOn k h
  | rfTransmitPacket => exact h

/-- The phase an action leads to. -/
def Action.leadsTo (a : Action) (rf : RfState) : RfState :=
  match a with
  | .rfWrite v => v
  | _ => rf

theorem action_leadsTo {a : Action} {s u : State} (h : a.run s = .next u) : u.rfState = a.leadsTo s.rfState := by
  have hrf := (action_writes h).rfState
  cases a with
  | rfWrite v => cases h; rfl
  | _ => exact hrf.resolve_right nofun

/-- At micro-step `k`, entered in phase `rf` with what `Agree` asks for known: what the action and what follows it read
is known, and afterwards everything is known that `Agree` asks for at a successor and at `READY`. -/
def keepsKnown (op : Op) (k : Nat) (a : Action) (rf : RfState) : Bool :=
  let K := needsAt (.running op k) rf
  let L := givesAfter op k (a.gives K)
  a.reads K && readsAfter op k (a.gives K) &&
    (.ready :: (successors op k).map (.running op)).all fun pc => (needsAt pc (a.leadsTo rf)).within L

/-- "No rule reads an unspecified element before an operation has written it" (R22), decided along the nine programs. -/
theorem microStep_keepsKnown {op : Op} {k : Nat} {a : Action} (ha : (programOf op)[k]? = some a) (rf : RfState) :
    keepsKnown op k a rf = true :=
  microStep_forall (P := fun op k a => keepsKnown op k a rf = true)
    (by intro op; cases op <;> cases rf <;> decide) ha

/-! ### The foreground and the tick -/

/-- Matching answers go on to matching answers. -/
theorem resultsAgree_mapNext {R : State → State → Prop} {f : State → State} {r r' : Result} (h : AnswersMatch R r r')
    (hf : ∀ u v, r = .next u → R u v → Agree (f u) (f v)) : ResultsAgree (mapNext r f) (mapNext r' f) := by
  cases r with
  | next u =>
    cases r' with
    | next v => exact hf u v rfl h
    | fault e => exact h
    | refused e => exact h
  | fault e => cases r' <;> exact h
  | refused e => cases r' <;> exact h

theorem micro_agree {s t : State} {op : Op} {k : Nat} {a : Action} (h : Agree s t) (hpc : s.fgPc = .running op k)
    (ha : (programOf op)[k]? = some a) :
    ResultsAgree (mapNext (a.run s) (following op k)) (mapNext (a.run t) (following op k)) := by
  have hkeeps := microStep_keepsKnown ha s.rfState
  simp only [keepsKnown, ← hpc, ← needs_eq, Bool.and_eq_true, List.all_eq_true] at hkeeps
  obtain ⟨⟨hreads, hafter⟩, hgoes⟩ := hkeeps
  refine resultsAgree_mapNext (action_agreeOn ((agree_iff s t).1 h) hreads) fun u v hu huv => ?_
  refine (agree_iff _ _).2 ((following_agreeOn huv hafter).mono ?_)
  rw [needs_eq, following_rfState, action_leadsTo hu]
  refine hgoes _ ?_
  have hupc : u.fgPc = .running op k := by rw [action_frame hu, hpc]
  rcases following_fgPc hupc (microStep_lt ha) with ⟨k', hk', hpc'⟩ | ⟨hready, -⟩
  · rw [hpc']
    exact List.mem_cons_of_mem _ (List.mem_map_of_mem hk')
  · rw [hready]
    exact List.mem_cons_self

theorem fgStep_agree {s t : State} (h : Agree s t) : ResultsAgree (fgStep s) (fgStep t) := by
  have htpc : t.fgPc = s.fgPc := by rw [h.1]
  have hbyte : t.argByte = s.argByte := by rw [h.1]
  cases hpc : s.fgPc with
  | ready =>
    rw [fgStep_ready hpc, fgStep_ready (htpc.trans hpc)]
    exact h
  | running op k =>
    have hop := opOf_instrOf op s.argByte
    rw [fgStep_running hpc, fgStep_running (htpc.trans hpc), hbyte, exec_eq_foreground, exec_eq_foreground, hop]
    cases ha : (programOf op)[k]? with
    | some a =>
      rw [foreground_running hpc ha, foreground_running (htpc.trans hpc) ha]
      exact micro_agree h hpc ha
    | none =>
      simp only [foreground, htpc, hpc, ha]
      exact rfl

/-- A transmission in flight has its buffer known. -/
theorem AgreeOn.inFlight {s t : State} (h : AgreeOn s.needs s t) (hrf : s.rfState ≠ .IDLE) :
    t.txBuf = s.txBuf ∧ t.txLen = s.txLen := by
  have hbusy := (busy_iff s).2 hrf
  exact ⟨h.txBuf (by simp [State.needs, State.usesTxBuf, hbusy]),
    h.txLen (by simp [State.needs, State.usesTxLen, hbusy])⟩

theorem tickHandler_agree {s t : State} (h : Agree s t) : ResultsAgree (tickHandler s) (tickHandler t) := by
  rw [agree_iff] at h
  have htrf : t.rfState = s.rfState := by rw [h.same]
  unfold tickHandler
  rw [htrf]
  cases hrf : s.rfState with
  | IDLE => exact (agree_iff s t).2 h
  | START =>
    obtain ⟨hbuf, hlen⟩ := h.inFlight (by simp [hrf])
    exact (agree_iff _ _).2 { h with
      same := by rw [h.same]; rfl
      txBuf := fun _ => hbuf
      txLen := fun _ => hlen
      counters := fun _ => ⟨rfl, rfl, rfl⟩
      level := fun _ => rfl }
  | LEAD_IN =>
    obtain ⟨hbuf, hlen⟩ := h.inFlight (by simp [hrf])
    obtain ⟨hbyte, hbit, hlead⟩ := h.counters (by simp [State.needs, State.usesCounters, hrf])
    have hparams : t.params = s.params := by rw [h.same]
    simp only [tickLeadIn, hlead, hparams]
    exact (agree_iff _ _).2 { h with
      same := by rw [h.same]; rfl
      txBuf := fun _ => hbuf
      txLen := fun _ => hlen
      counters := fun _ => ⟨hbyte, hbit, rfl⟩
      level := fun _ => rfl }
  | BIT_PHASE1 =>
    obtain ⟨hbuf, hlen⟩ := h.inFlight (by simp [hrf])
    obtain ⟨hbyte, hbit, hlead⟩ := h.counters (by simp [State.needs, State.usesCounters, hrf])
    have hload : t.memRead (loadAddress t) = s.memRead (loadAddress s) := by
      rw [loadAddress, loadAddress, hbuf, hbyte, h.same]
      rfl
    simp only [tickBitPhase1, hload, hbit]
    cases s.memRead (loadAddress s) with
    | none => exact rfl
    | some v =>
      simp only
      cases currentBit v s.bitIdx with
      | none => exact rfl
      | some b =>
        exact (agree_iff _ _).2 { h with
          same := by rw [h.same]; rfl
          txBuf := fun _ => hbuf
          txLen := fun _ => hlen
          counters := fun _ => ⟨hbyte, hbit, hlead⟩
          level := fun _ => rfl }
  | BIT_PHASE2 =>
    obtain ⟨hbuf, hlen⟩ := h.inFlight (by simp [hrf])
    obtain ⟨hbyte, hbit, hlead⟩ := h.counters (by simp [State.needs, State.usesCounters, hrf])
    have hlevel := h.level (by simp [State.needs, hrf])
    simp only [tickBitPhase2, hlen, hbyte, hbit, State.rfLevel, hlevel]
    exact (agree_iff _ _).2 { h with
      same := by rw [h.same]; rfl
      txBuf := fun _ => hbuf
      txLen := fun _ => hlen
      counters := fun _ => ⟨rfl, rfl, hlead⟩
      level := fun _ => rfl }
  | END =>
    obtain ⟨hbuf, hlen⟩ := h.inFlight (by simp [hrf])
    have hcounters := h.counters (by simp [State.needs, State.usesCounters, hrf])
    exact (agree_iff _ _).2 { h with
      same := by rw [h.same]; rfl
      txBuf := fun _ => hbuf
      txLen := fun _ => hlen
      counters := fun _ => hcounters
      level := fun _ => rfl }

theorem tickStep_agree {s t : State} (h : Agree s t) : ResultsAgree (tickStep s) (tickStep t) := by
  have hp : t.tickPossible = s.tickPossible := by rw [h.1]; rfl
  rw [tickStep_eq, tickStep_eq, hp]
  split
  · exact tickHandler_agree h
  · exact h

/-! ### The host -/

/-- An issue reads the operand registers, which are specified. -/
theorem issued_agreeOn {K : Known} {s t : State} (i : Instr) (h : AgreeOn K s t) :
    AgreeOn K (issued i s) (issued i t) := by
  have hlen : t.argLen = s.argLen := by rw [h.same]
  have hfits : t.bufferFits = s.bufferFits := by rw [h.same]; rfl
  cases i with
  | busReadBuffer =>
    simp only [issued]
    unfold State.acceptReadBuffer
    rw [hlen, hfits]
    split
    · exact h.complete _
    · split
      · exact h.goto _ _
      · exact h.refuse
  | rfTransmitBuffer =>
    simp only [issued]
    unfold State.acceptTransmit
    rw [hlen, hfits]
    split
    · exact h.refuse
    · split
      · exact h.goto _ _
      · exact h.refuse
  | rfTransmitPacket => exact h.refuse
  | busWriteByte b => exact { h with same := by rw [h.same]; rfl }
  | _ => exact h.goto _ _

/-- An issue leads to `READY` or to a first micro-step, where no working element is used. -/
theorem issued_agree {s t : State} (i : Instr) (h : Agree s t) (hpc : s.fgPc = .ready) :
    Agree (issued i s) (issued i t) := by
  refine (agree_iff _ _).2 ((issued_agreeOn i ((agree_iff s t).1 h)).mono ?_)
  have hrf : (issued i s).rfState = s.rfState := by rw [issued_frame]
  rw [needs_eq, needs_eq, hrf, hpc]
  have hfirst : ∀ op rf, (needsAt (.running op 0) rf).within (needsAt .ready rf) = true := by
    intro op rf
    cases op <;> cases rf <;> decide
  have hready : ∀ rf, (needsAt .ready rf).within (needsAt .ready rf) = true := by
    intro rf
    cases rf <;> decide
  rcases issued_fgPc i s with h | h | h
  · rw [h, hpc]
    exact hready _
  · rw [h]
    exact hready _
  · rw [h]
    exact hfirst _ _

theorem agree_withHostQ {s t : State} (acts : List HostAct) (h : Agree s t) :
    Agree { s with hostQ := acts } { t with hostQ := acts } := by
  rw [agree_iff] at h ⊢
  exact { h with same := by rw [h.same] }

theorem hostAct_agree {s t : State} {a : HostAct} (h : Agree s t) (hpc : a.waits = true → s.fgPc = .ready) :
    ResultsAgree (a.run s) (a.run t) := by
  have hparams : t.params = s.params := by rw [h.1]
  have htpc : t.fgPc = s.fgPc := by rw [h.1]
  have hmem : t.mem = s.mem := by rw [h.1]
  cases a with
  | issue w =>
    simp only [HostAct.run, issueWord]
    split
    · next i _ =>
      rw [exec_ready (hpc rfl), exec_ready (htpc.trans (hpc rfl))]
      exact issued_agree i h (hpc rfl)
    · exact (agree_iff _ _).2 ((agree_iff s t).1 h).refuse
  | writePtr p =>
    rw [agree_iff] at h
    simp only [HostAct.run, hparams]
    exact (agree_iff _ _).2 { h with same := by rw [h.same] }
  | writeLen n =>
    rw [agree_iff] at h
    simp only [HostAct.run, hparams]
    exact (agree_iff _ _).2 { h with same := by rw [h.same] }
  | setGie b =>
    rw [agree_iff] at h
    exact (agree_iff _ _).2 { h with same := by rw [h.same] }
  | store x v =>
    rw [agree_iff] at h
    simp only [HostAct.run, hparams, hmem]
    exact (agree_iff _ _).2 { h with same := by rw [h.same] }

theorem hostStep_agree {s t : State} (h : Agree s t) : ResultsAgree (hostStep s) (hostStep t) := by
  have hq : t.hostQ = s.hostQ := by rw [h.1]
  have hmove : t.hostCanMove = s.hostCanMove := by rw [h.1]; rfl
  unfold hostStep
  rw [hq, hmove]
  split
  · exact h
  · next a acts hacts =>
    split
    · next hc => exact hostAct_agree (agree_withHostQ acts h) fun hw => hostCanMove_waits (s := s) hacts hc hw
    · exact h

/-! ### Every step -/

/-- Who moves is chosen by specified elements alone. -/
theorem choose_same {s t : State} (h : SameSpecified s t) :
    ∃ who turns fairIn n, s.choose = (who, { s with turns := turns, fairIn := fairIn, freeCtr := n }) ∧
      t.choose = (who, { t with turns := turns, fairIn := fairIn, freeCtr := n }) := by
  have hturns : t.turns = s.turns := by rw [h]
  have hmovers : t.movers = s.movers := by rw [h]; rfl
  have hfair : t.fairIn = s.fairIn := by rw [h]
  have hctr : t.freeCtr = s.freeCtr := by rw [h]
  have hbound : t.fairBound = s.fairBound := by rw [h]; rfl
  unfold State.choose
  rw [hturns, hmovers]
  cases s.turns with
  | cons a rest => exact ⟨some a, rest, s.fairIn, s.freeCtr, rfl, by rw [← hfair, ← hctr]⟩
  | nil =>
    match s.movers with
    | [] => exact ⟨none, s.turns, s.fairIn, s.freeCtr, rfl, by rw [← hturns, ← hfair, ← hctr]⟩
    | [a] => exact ⟨some a, s.turns, s.fairIn, s.freeCtr, rfl, by rw [← hturns, ← hfair, ← hctr]⟩
    | a :: b :: rest =>
      by_cases hdue : s.fairBound = 0
      · exact ⟨_, _, _, _, fairChoice_due hdue,
          (fairChoice_due (hbound.trans hdue)).trans (by rw [State.fairRound, hctr])⟩
      · exact ⟨_, s.turns, _, _, fairChoice_waits hdue,
          (fairChoice_waits (hbound ▸ hdue)).trans (by rw [State.freeChoice, hbound, hctr, ← hturns])⟩

/-- Settles O58: who moves, the host's acts, the micro-steps and the tick rules read only what `Agree` asks for. -/
theorem unspecifiedElementsNeverMatter : Obligations.UnspecifiedElementsNeverMatter := by
  intro s t h
  obtain ⟨who, turns, fairIn, n, hs, ht⟩ := choose_same h.1
  have hchosen : Agree { s with turns := turns, fairIn := fairIn, freeCtr := n }
      { t with turns := turns, fairIn := fairIn, freeCtr := n } := by
    rw [agree_iff] at h
    exact (agree_iff _ _).2 { h with same := by rw [h.same] }
  unfold step moveStep
  rw [hs, ht]
  cases who with
  | none => exact hchosen
  | some a =>
    cases a with
    | host => exact hostStep_agree hchosen
    | fg => exact fgStep_agree hchosen
    | tick => exact tickStep_agree hchosen

end Sys2Proof.Machine
end

section
/-! SUPPORT. Bytes stored in memory read back, and only the tick moves an armed transmission (rules R41, R43, R49). -/

namespace Sys2Proof.Machine

/-! ### Bytes stored ascending -/

theorem read_storeBytes_outside {m : Memory} {a x : Nat} {vs : List Byte} (h : x < a ∨ a + vs.length ≤ x) :
    (storeBytes m a vs).read x = m.read x := by
  induction vs generalizing m a with
  | nil => rfl
  | cons v rest ih =>
    rw [List.length_cons] at h
    calc (storeBytes (m.write a v) (a + 1) rest).read x
      _ = (m.write a v).read x := ih (by omega)
      _ = m.read x := Memory.read_write_other (by omega)

/-- The first byte stored stays, as the later ones lie above it (R43). -/
theorem bytesAt_storeBytes {m : Memory} {a : Nat} {vs : List Byte} (hm : m.wf = true) :
    bytesAt (storeBytes m a vs) a vs.length = vs := by
  induction vs generalizing m a with
  | nil => rfl
  | cons v rest ih =>
    have hfirst : (storeBytes (m.write a v) (a + 1) rest).read a = v := by
      rw [read_storeBytes_outside (.inl (Nat.lt_succ_self a)), Memory.read_write_self hm]
    exact congrArg₂ List.cons hfirst (ih (Memory.wf_write hm))

/-- Settles O22, by induction on the bytes: each is written, and the later stores do not reach it. -/
theorem storedBytesReadBackInOrder : Obligations.StoredBytesReadBackInOrder := fun _ _ _ hm =>
  ⟨bytesAt_storeBytes hm, fun _ => read_storeBytes_outside⟩

/-! ### A transmission in flight -/

/-- In flight, the foreground is in its wait and every host act that needs `READY` waits: only `GIE`, memory and the
host's list can change until the next tick (R21 item 5, R49). -/
theorem moves_inFlight {a : Agent} {s t : State} (hs : s.Inv) (hrf : s.rfState ≠ .IDLE) (ha : a ≠ .tick)
    (h : Moves a s t) : t = { s with gie := t.gie, mem := t.mem, hostQ := t.hostQ } := by
  have hbusy : s.fgPc ≠ .ready := fun hpc => hrf (inv_ready_idle hs hpc)
  cases h with
  | rest => rfl
  | refuse _ hpc => exact absurd hpc hbusy
  | issue _ _ hpc => exact absurd hpc hbusy
  | writePtr _ hpc => exact absurd hpc hbusy
  | writeLen _ hpc => exact absurd hpc hbusy
  | setGie _ => rfl
  | store _ => rfl
  | micro hpc hact hu =>
    obtain ⟨-, -, hport, -⟩ := hs
    rw [micro_inFlight hport hrf hpc hact hu]
  | tick _ _ => exact absurd rfl ha

/-- Settles O46: the choice of who moves writes no radio state, and no move but a tick does in flight. -/
theorem onlyTheTickMovesAnArmedTransmission : Obligations.OnlyTheTickMovesAnArmedTransmission := by
  intro s t hs hrf htick h
  have hchosen := choose_frame s
  rcases step_moves h with rfl | ⟨a, ha, hm⟩
  · rw [hchosen]
    simp
  · have hc : s.choose.2.Inv := by
      rw [hchosen]
      exact hs
    have hframe := moves_inFlight hc (by rwa [hchosen]) (fun hat => htick (hat ▸ ha)) hm
    rw [hframe, hchosen]
    simp

end Sys2Proof.Machine
end

section
/-! SUPPORT. The decoder against the encoder, the opcode map and the rule of illegal words (rules R68, R69, R71). -/

namespace Sys2Proof

/-! ### The fields of a word -/

@[simp] theorem opField_append (o z : BitVec 4) (d : Byte) : opField (o ++ z ++ d) = o := by
  unfold opField
  rw [BitVec.extractLsb'_append_eq_of_le (by decide)]
  exact BitVec.extractLsb'_append_eq_left

@[simp] theorem zeroField_append (o z : BitVec 4) (d : Byte) : zeroField (o ++ z ++ d) = z := by
  unfold zeroField
  rw [BitVec.extractLsb'_append_eq_of_le (by decide)]
  exact BitVec.extractLsb'_append_eq_right

@[simp] theorem dataField_append (o z : BitVec 4) (d : Byte) : dataField (o ++ z ++ d) = d :=
  BitVec.extractLsb'_append_eq_right

/-- The three fields are the whole word (R68). -/
theorem append_fields (w : CommandWord) : opField w ++ zeroField w ++ dataField w = w := by
  have hhigh : opField w ++ zeroField w = w.extractLsb' 8 8 := BitVec.extractLsb'_append_extractLsb'_eq_extractLsb' rfl
  rw [hhigh]
  exact (BitVec.extractLsb'_append_extractLsb'_eq_extractLsb' rfl).trans BitVec.extractLsb'_eq_self

@[simp] theorem opField_and (v w : CommandWord) : opField (v &&& w) = opField v &&& opField w :=
  BitVec.extractLsb'_and

@[simp] theorem zeroField_and (v w : CommandWord) : zeroField (v &&& w) = zeroField v &&& zeroField w :=
  BitVec.extractLsb'_and

@[simp] theorem dataField_and (v w : CommandWord) : dataField (v &&& w) = dataField v &&& dataField w :=
  BitVec.extractLsb'_and

theorem eq_append_iff {w : CommandWord} {o z : BitVec 4} {d : Byte} :
    w = o ++ z ++ d ↔ opField w = o ∧ zeroField w = z ∧ dataField w = d := by
  constructor
  · rintro rfl
    simp
  · rintro ⟨rfl, rfl, rfl⟩
    exact (append_fields w).symm

theorem eq_encode_iff {w : CommandWord} {i : Instr} :
    w = encode i ↔ opField w = opNumber i ∧ zeroField w = 0 ∧ dataField w = dataOf i := eq_append_iff

/-! ### Decoding by the fields -/

theorem opNumber_not_reserved (i : Instr) : opReserved (opNumber i) = false := by
  cases i <;> rfl

theorem withoutData_eq_ok {w : CommandWord} {i j : Instr} (h : withoutData w j = .ok i) :
    i = j ∧ dataField w = 0 := by
  unfold withoutData at h
  split at h
  · next hdata => exact ⟨by cases h; rfl, hdata⟩
  · cases h

theorem decodeOp_eq_ok {w : CommandWord} {i : Instr} (h : decodeOp w = .ok i) :
    opField w = opNumber i ∧ dataField w = dataOf i := by
  unfold decodeOp at h
  split at h
  case h_4 hop => cases h; exact ⟨BitVec.eq_of_toNat_eq hop, rfl⟩
  case h_10 => cases h
  all_goals
    next hop =>
    obtain ⟨rfl, hdata⟩ := withoutData_eq_ok h
    exact ⟨BitVec.eq_of_toNat_eq hop, hdata⟩

theorem decodeOp_of_fields {w : CommandWord} {i : Instr} (hop : opField w = opNumber i)
    (hdata : dataField w = dataOf i) : decodeOp w = .ok i := by
  unfold decodeOp withoutData
  rw [hop, hdata]
  cases i <;> rfl

/-- A word means an operation when its fields are the operation's number, 0 and the operation's data (R68, R69). -/
theorem decode_eq_ok_iff {w : CommandWord} {i : Instr} :
    decode w = .ok i ↔ opField w = opNumber i ∧ zeroField w = 0 ∧ dataField w = dataOf i := by
  unfold decode
  constructor
  · intro h
    split at h
    · cases h
    · split at h
      · next hzero =>
        obtain ⟨hop, hdata⟩ := decodeOp_eq_ok h
        exact ⟨hop, hzero, hdata⟩
      · cases h
  · rintro ⟨hop, hzero, hdata⟩
    rw [hop, opNumber_not_reserved, if_neg (by decide), if_pos hzero]
    exact decodeOp_of_fields hop hdata

theorem decode_encode (i : Instr) : decode (encode i) = .ok i := decode_eq_ok_iff.2 (eq_encode_iff.1 rfl)

/-- Settles O1: the word of an operation is the one with the fields that the decoder asks for. -/
theorem legalWordsAreExactlyTheEncodings : Obligations.LegalWordsAreExactlyTheEncodings := by
  intro w i
  have hwf : WellFormed i = true := by cases i <;> rfl
  rw [decode_eq_ok_iff, eq_encode_iff]
  exact (and_iff_right hwf).symm

/-- Settles O4: the nine words are encodings; the illegal ones break the first and the second check of the decoder. -/
theorem sampleWordsDecode : Obligations.SampleWordsDecode :=
  ⟨decode_encode .busInit, decode_encode .busStart, decode_encode .busStop, decode_encode (.busWriteByte 0xEC),
    decode_encode .busReadByte, decode_encode .busReadBuffer, decode_encode .rfInit, decode_encode .rfTransmitBuffer,
    decode_encode .rfTransmitPacket, by decide, by decide⟩

/-! ### The rows of the opcode map -/

/-- One operation of each name, with data 0. -/
def oneOfEach : List Instr :=
  [.busInit, .busStart, .busStop, .busWriteByte 0, .busReadByte, .busReadBuffer, .rfInit, .rfTransmitBuffer,
    .rfTransmitPacket]

/-- The bits of the `data` field that a row of the opcode map checks: none in format B, all in formats N and M. -/
def dataMask (i : Instr) : Byte :=
  match i with
  | .busWriteByte _ => 0x00
  | _ => 0xFF

/-- The row of the opcode map that an operation stands in (R69). -/
def rowOf (i : Instr) : OpcodeRow :=
  ⟨mnemonic i, opNumber i ++ (0 : BitVec 4) ++ (0 : Byte), BitVec.allOnes 4 ++ BitVec.allOnes 4 ++ dataMask i⟩

theorem opcodeTable_eq_map : opcodeTable = oneOfEach.map rowOf := by decide

theorem mem_opcodeTable_iff {r : OpcodeRow} : r ∈ opcodeTable ↔ ∃ i, rowOf i = r := by
  rw [opcodeTable_eq_map]
  constructor
  · intro h
    obtain ⟨i, -, hi⟩ := List.mem_map.1 h
    exact ⟨i, hi⟩
  · rintro ⟨i, rfl⟩
    cases i with
    | busWriteByte b => exact List.mem_map.2 ⟨.busWriteByte 0, by decide, rfl⟩
    | _ => exact List.mem_map_of_mem (by decide)

theorem rowOf_selects_iff {w : CommandWord} {i : Instr} :
    (rowOf i).selects w = true ↔
      opField w = opNumber i ∧ zeroField w = 0 ∧ dataField w &&& dataMask i = 0 := by
  rw [OpcodeRow.selects, beq_iff_eq]
  refine eq_append_iff.trans ?_
  simp only [rowOf, opField_and, zeroField_and, dataField_and, opField_append, zeroField_append, dataField_append,
    BitVec.and_allOnes]

/-- A row selects exactly the words of the operations that stand in it. -/
theorem rowOf_selects_iff_exists_decode {w : CommandWord} {i : Instr} :
    (rowOf i).selects w = true ↔ ∃ j, decode w = .ok j ∧ rowOf j = rowOf i := by
  constructor
  · intro h
    obtain ⟨hop, hzero, hdata⟩ := rowOf_selects_iff.1 h
    cases i with
    | busWriteByte b => exact ⟨.busWriteByte (dataField w), decode_eq_ok_iff.2 ⟨hop, hzero, rfl⟩, rfl⟩
    | _ => exact ⟨_, decode_eq_ok_iff.2 ⟨hop, hzero, BitVec.and_allOnes.symm.trans hdata⟩, rfl⟩
  · rintro ⟨j, hj, hrow⟩
    obtain ⟨hop, hzero, hdata⟩ := decode_eq_ok_iff.1 hj
    rw [← hrow, rowOf_selects_iff, hdata]
    refine ⟨hop, hzero, ?_⟩
    cases j with
    | busWriteByte b => exact BitVec.and_zero
    | _ => rfl

/-- Settles O2: the row that selects a word is the row of the operation the word decodes to. -/
theorem opcodeTableSelectsOneRow : Obligations.OpcodeTableSelectsOneRow := by
  refine ⟨?_, ?_⟩
  · intro w r q hr hq hrw hqw
    obtain ⟨i, rfl⟩ := mem_opcodeTable_iff.1 hr
    obtain ⟨j, rfl⟩ := mem_opcodeTable_iff.1 hq
    obtain ⟨i', hi, hrow⟩ := rowOf_selects_iff_exists_decode.1 hrw
    obtain ⟨j', hj, hrow'⟩ := rowOf_selects_iff_exists_decode.1 hqw
    have hsame : i' = j' := by simpa [hi] using hj
    rw [← hrow, hsame, hrow']
  · intro w m
    constructor
    · rintro ⟨i, hi, rfl⟩
      exact ⟨rowOf i, mem_opcodeTable_iff.2 ⟨i, rfl⟩, rfl, rowOf_selects_iff_exists_decode.2 ⟨i, hi, rfl⟩⟩
    · rintro ⟨r, hr, rfl, hrw⟩
      obtain ⟨i, rfl⟩ := mem_opcodeTable_iff.1 hr
      obtain ⟨j, hj, hrow⟩ := rowOf_selects_iff_exists_decode.1 hrw
      exact ⟨j, hj, congrArg OpcodeRow.mnemonic hrow⟩

/-! ### Illegal words -/

theorem exists_decode_error_iff {w : CommandWord} : (∃ why, decode w = .error why) ↔ ¬∃ i, decode w = .ok i := by
  cases decode w <;> simp

theorem opReserved_eq_false_iff {op : BitVec 4} :
    opReserved op = false ↔ op.toNat ≠ 0x0 ∧ op.toNat ≠ 0x7 ∧ op.toNat < 0xB := by
  revert op
  decide

/-- Each number that is not reserved names an operation, one whose word can carry data 0. -/
theorem exists_opNumber {op : BitVec 4} (h : opReserved op = false) : ∃ i, opNumber i = op ∧ dataOf i = 0 := by
  have hlist : ∀ op, opReserved op = false → ∃ i ∈ oneOfEach, opNumber i = op ∧ dataOf i = 0 := by decide
  obtain ⟨i, -, hi⟩ := hlist op h
  exact ⟨i, hi⟩

/-- The legal words, by their fields (R71). -/
theorem exists_decode_ok_iff {w : CommandWord} : (∃ i, decode w = .ok i) ↔
    opReserved (opField w) = false ∧ zeroField w = 0 ∧ ((opField w).toNat = 0x4 ∨ dataField w = 0) := by
  simp only [decode_eq_ok_iff]
  constructor
  · rintro ⟨i, hop, hzero, hdata⟩
    rw [hop, hdata]
    refine ⟨opNumber_not_reserved i, hzero, ?_⟩
    cases i with
    | busWriteByte b => exact .inl rfl
    | _ => exact .inr rfl
  · rintro ⟨hop, hzero, hfour | hdata⟩
    · exact ⟨.busWriteByte (dataField w), BitVec.eq_of_toNat_eq hfour, hzero, rfl⟩
    · obtain ⟨i, hi, hi0⟩ := exists_opNumber hop
      exact ⟨i, hi.symm, hzero, hdata.trans hi0.symm⟩

/-- Settles O3: a word is rejected when it is not one of the legal words. -/
theorem illegalWordsAreThoseOfTheRule : Obligations.IllegalWordsAreThoseOfTheRule := by
  intro w
  rw [exists_decode_error_iff, exists_decode_ok_iff, opReserved_eq_false_iff]
  simp only [not_and_or, not_or, ne_eq, not_not, not_lt, or_assoc]

end Sys2Proof
end

section
/-! SUPPORT. The address byte, the codes of `rf_state` and the levels of the lines (rules R60, R63 to R65, R73). -/

namespace Sys2Proof.Machine

/-- Settles O5: the address stands above the one bit of the direction. -/
theorem addressByteIsAddressThenDirection : Obligations.AddressByteIsAddressThenDirection := by
  intro a dir
  refine ⟨?_, BitVec.extractLsb'_append_eq_left, ?_⟩
  · have hbit : dir.toNat < 2 ^ 1 := Bool.toNat_lt dir
    calc (addrByte a dir).toNat = a.toNat <<< 1 ||| dir.toNat := by
          rw [addrByte, BitVec.toNat_append, BitVec.toNat_ofBool]
      _ = a.toNat <<< 1 + dir.toNat := (Nat.shiftLeft_add_eq_or_of_lt hbit _).symm
      _ = 2 * a.toNat + dir.toNat := by rw [Nat.shiftLeft_eq, pow_one, Nat.mul_comm]
  · rw [addrByte, BitVec.getLsbD_append, if_pos Nat.one_pos, BitVec.getLsbD_ofBool]
    rfl

theorem ofCode_code (r : RfState) : RfState.ofCode r.code = some r := by
  cases r <;> rfl

/-- Settles O6: each code is read off the table. -/
theorem radioStateCodesAreTableOrder : Obligations.RadioStateCodesAreTableOrder :=
  ⟨rfl, ofCode_code, rfl, rfl⟩

theorem wireLevel_eq_low_iff {d : Drive} {pulls : Bool} : wireLevel d pulls = .L ↔ d = .D0 ∨ pulls = true := by
  cases d <;> cases pulls <;> decide

theorem eq_high_iff {l : Level} : l = .H ↔ l ≠ .L := by
  cases l <;> decide

/-- Settles O7: a line is low when anybody drives it low, and high when it is not low. -/
theorem busLineIsWiredAnd : Obligations.BusLineIsWiredAnd := by
  intro d pulls
  refine ⟨wireLevel_eq_low_iff, ?_⟩
  rw [eq_high_iff, ne_eq, wireLevel_eq_low_iff, not_or, Bool.not_eq_true]

theorem levelOfRf_rfDriveOf (l : Level) : levelOfRf (rfDriveOf l) = l := by
  cases l <;> rfl

/-- Settles O8: the second half-symbol is the complement of the first, and a level set on RF_OUT reads back. -/
theorem manchesterSymbolsOnTheRadioLine : Obligations.ManchesterSymbolsOnTheRadioLine :=
  ⟨rfl, rfl, rfl, rfl, levelOfRf_rfDriveOf⟩

end Sys2Proof.Machine
end

section
/-! SUPPORT. The command port: a word presented at `READY` is issued or refused in that step (rules R71, R76). -/

namespace Sys2Proof.Machine

theorem issueWord_legal {w : CommandWord} {i : Instr} (h : decode w = .ok i) (s : State) :
    issueWord w s = exec i s := by
  simp only [issueWord, h]

theorem issueWord_illegal {w : CommandWord} {why : IllegalWord} (h : decode w = .error why) (s : State) :
    issueWord w s = .next s.refuse := by
  simp only [issueWord, h]

/-- At `READY` the block takes the word the host presents (R76). -/
theorem hostStep_issue {s : State} {w : CommandWord} {acts : List HostAct} (hpc : s.fgPc = .ready)
    (hq : s.hostQ = .issue w :: acts) : hostStep s = issueWord w { s with hostQ := acts } :=
  hostStep_acts hq fun _ => hpc

/-- At `READY`, with a word presented and no tick possible, the host is the one agent that can move. -/
theorem movers_issue {s : State} {w : CommandWord} {acts : List HostAct} (hpc : s.fgPc = .ready)
    (hq : s.hostQ = .issue w :: acts) (htick : s.tickPossible = false) : s.movers = [.host] := by
  simp [State.movers, State.hostCanMove, State.fgCanMove, hpc, hq, htick]

theorem step_issue {s : State} {w : CommandWord} {acts : List HostAct} {later : List Agent} (hpc : s.fgPc = .ready)
    (hq : s.hostQ = .issue w :: acts) (hturns : s.turns = .host :: later) :
    step s = issueWord w { s with hostQ := acts, turns := later } := by
  rw [step_hostTurn hturns]
  exact hostStep_issue (s := { s with turns := later }) hpc hq

theorem step_issue_only {s : State} {w : CommandWord} {acts : List HostAct} (hpc : s.fgPc = .ready)
    (hq : s.hostQ = .issue w :: acts) (hturns : s.turns = []) (htick : s.tickPossible = false) :
    step s = issueWord w { s with hostQ := acts } := by
  unfold step
  rw [choose_only hturns (movers_issue hpc hq htick)]
  exact hostStep_issue hpc hq

/-- Settles O9: the host moves, by its turn or as the only agent that can, and the word it presents is issued. -/
theorem stepIssuesTheDecodedInstruction : Obligations.StepIssuesTheDecodedInstruction := by
  intro s i w acts hpc hq hw
  refine ⟨fun later hturns => ?_, fun hturns htick => ?_⟩
  · rw [step_issue hpc hq hturns, issueWord_legal hw]
  · rw [step_issue_only hpc hq hturns htick, issueWord_legal hw]

theorem portWord_toNat (w : CommandWord) : portWord 16 w.toNat = w := by
  rw [portWord, Nat.mod_eq_of_lt w.isLt, BitVec.ofNat_toNat, BitVec.setWidth_eq]

/-- Settles O11: the word placed is the encoding, so the host's turn issues the instruction it came from. -/
theorem placedWordRunsNext : Obligations.PlacedWordRunsNext := by
  intro s i _
  have hword : decode (portWord 16 (encode i).toNat) = .ok i := by rw [portWord_toNat, decode_encode]
  have hissue := step_issue (s := s.withFetchWord 16 (encode i).toNat) rfl rfl rfl
  exact hissue.trans (issueWord_legal hword _)

/-- Settles O12: the host's turn presents the word, and the word is refused; a turn of the host shows no event. -/
theorem illegalWordIsRefused : Obligations.IllegalWordIsRefused := by
  intro s w acts why later hpc hq hturns hw
  refine ⟨?_, ?_⟩
  · rw [step_issue hpc hq hturns, issueWord_illegal hw]
    rfl
  · unfold stepEvents
    rw [choose_turn hturns]

end Sys2Proof.Machine
end

section
/-! SUPPORT. The pin primitives: the order of sampled bits, what a pin read answers, where the block samples and where it
stores (rules R85, R94, R96). -/

namespace Sys2Proof.Machine

/-! ### Sampled levels -/

theorem getLsbD_shiftIn_zero (v : Byte) (b : Bool) : (shiftIn v b).getLsbD 0 = b := by
  simp [shiftIn]

theorem getLsbD_shiftIn_succ (v : Byte) (b : Bool) {n : Nat} (h : n < 7) :
    (shiftIn v b).getLsbD (n + 1) = v.getLsbD n := by
  have hbit : n + 1 < 8 := by omega
  simp [shiftIn, hbit, -BitVec.getLsbD_eq_getElem]

/-- A shift drops the top bit and puts the new one last. -/
theorem bitsMsbFirst_shiftIn (v : Byte) (b : Bool) :
    bitsMsbFirst (shiftIn v b) = (bitsMsbFirst v).tail ++ [b] := by
  simp only [bitsMsbFirst, getLsbD_shiftIn_zero, getLsbD_shiftIn_succ, Nat.reduceLT, List.tail_cons,
    List.cons_append, List.nil_append]

/-- Sampled levels queue up behind the bits of the start value, and each pushes one bit out at the top. -/
theorem bitsMsbFirst_accumulate (v : Byte) (ls : List Level) :
    bitsMsbFirst (accumulate v ls) = (bitsMsbFirst v ++ ls.map bitOfLevel).drop ls.length := by
  induction ls generalizing v with
  | nil => simp [accumulate]
  | cons l rest ih =>
    calc bitsMsbFirst (accumulate (shiftIn v (bitOfLevel l)) rest)
      _ = (bitsMsbFirst (shiftIn v (bitOfLevel l)) ++ rest.map bitOfLevel).drop rest.length := ih _
      _ = ((bitsMsbFirst v).tail ++ bitOfLevel l :: rest.map bitOfLevel).drop rest.length := by
        rw [bitsMsbFirst_shiftIn, List.append_assoc, List.singleton_append]

/-- Eight sampled levels push the whole start value out (R94). -/
theorem bitsMsbFirst_byteOfLevels {ls : List Level} (h : ls.length = 8) :
    bitsMsbFirst (byteOfLevels ls) = ls.map bitOfLevel := by
  rw [byteOfLevels, bitsMsbFirst_accumulate, h]
  exact List.drop_left (l₁ := bitsMsbFirst 0)

theorem levelOfBit_bitOfLevel (l : Level) : levelOfBit (bitOfLevel l) = l := by
  cases l <;> rfl

/-- Settles O19: the bits of the byte are those of the levels in order, and a level is that of its bit. -/
theorem sampledLevelsAccumulateMsbFirst : Obligations.SampledLevelsAccumulateMsbFirst := by
  intro a b c d e f g h
  rw [bitsMsbFirst_byteOfLevels rfl]
  simp [levelOfBit_bitOfLevel]

/-! ### Pin reads -/

theorem envAnswer_listed {s : State} {l : Level} {rest : List Level} (h : s.envQ = l :: rest) :
    s.envAnswer = (l, { s with envQ := rest }) := by
  simp only [State.envAnswer, h]

/-- Settles O28: a line at D0 is answered by the block itself, every other by ENV's list. -/
theorem pinReadAsksTheEnvironment : Obligations.PinReadAsksTheEnvironment := fun _ _ =>
  ⟨pinRead_low, fun hd _ _ hq => (pinRead_notLow hd).trans (envAnswer_listed hq)⟩

theorem sampleSda_at {op : Op} {k : Nat} (h : (programOf op)[k]? = some .sampleSda) :
    op = .busWriteByte ∧ k = 10 ∨ op = .busReadByte ∧ k = 5 ∨ op = .busReadBuffer ∧ k = 5 :=
  microStep_forall
    (P := fun op k a => a = .sampleSda →
      op = .busWriteByte ∧ k = 10 ∨ op = .busReadByte ∧ k = 5 ∨ op = .busReadBuffer ∧ k = 5)
    (by intro op; cases op <;> decide) h rfl

/-- Settles O29: at each of the three samples the micro-steps before have released SDA. -/
theorem everySampleIsOfAReleasedLine : Obligations.EverySampleIsOfAReleasedLine := by
  intro s op k hs hpc ha
  obtain ⟨-, hat, -⟩ := hs
  obtain ⟨-, hSDA⟩ := hat op k hpc
  rcases sampleSda_at ha with ⟨rfl, rfl⟩ | ⟨rfl, rfl⟩ | ⟨rfl, rfl⟩
  · exact hSDA .Z rfl
  · exact hSDA .Z rfl
  · exact hSDA .Z rfl

/-! ### The store of `BUS_READ_BUFFER` -/

/-- The store is the one action that writes memory. -/
theorem action_mem {a : Action} {s u : State} (h : a.run s = .next u) :
    u.mem = if a = .storeByte then s.mem.write (storeAddress s) s.sh else s.mem := by
  cases a with
  | release X => cases X <;> cases h <;> rfl
  | pullup X => cases X <;> cases h <;> rfl
  | low X => cases X <;> cases h <;> rfl
  | sampleSda => cases h; rw [pinRead_frame s .SDA]; rfl
  | sda b =>
    simp only [Action.run] at h
    split at h
    · next v _ => cases v <;> cases h <;> rfl
    · cases h
  | storeByte => obtain ⟨-, rfl⟩ := State.memWrite_next h; rfl
  | _ => cases h; rfl

theorem storeByte_at {op : Op} {k : Nat} {a : Action} (h : (programOf op)[k]? = some a) :
    a = .storeByte ↔ op = .busReadBuffer ∧ k = 8 :=
  microStep_forall (P := fun op k a => a = .storeByte ↔ op = .busReadBuffer ∧ k = 8)
    (by intro op; cases op <;> decide) h

/-- One `exec` changes memory in the store of `BUS_READ_BUFFER` alone. -/
theorem exec_mem {i : Instr} {s t : State} (h : exec i s = .next t) :
    t.mem = if s.fgPc = .running .busReadBuffer 8 then s.mem.write (storeAddress s) s.sh else s.mem := by
  rcases exec_next h with ⟨hpc, rfl⟩ | ⟨k, a, u, hpc, ha, hu, rfl⟩
  · rw [issued_frame, hpc]
    rfl
  · rw [following_frame, action_mem hu, hpc]
    simp only [storeByte_at ha, FgPc.running.injEq]

/-- Settles O48: memory is as before or, in the store, as before but for the byte at the store address. -/
theorem busReadBufferMemoryFrame : Obligations.BusReadBufferMemoryFrame := by
  intro s t h
  rw [exec_mem h]
  split
  · next hpc =>
    exact ⟨fun a ha => Memory.read_write_other fun heq => ha ⟨hpc, heq⟩, fun _ => Memory.read_write_self⟩
  · next hpc => exact ⟨fun _ _ => rfl, fun hstore => absurd hstore hpc⟩

end Sys2Proof.Machine
end

section
/-! SUPPORT. Runs of an operation: micro-steps one after another inside it, with the state they lead to and the events
they show (rules R13, R93). -/

namespace Sys2Proof.Machine

/-- `n` micro-steps of operation `i` lead from `s` to `t` and show the events `es`; before each of them the operation is
in progress (R13, R93). -/
structure Runs (i : Instr) (n : Nat) (s t : State) (es : List Event) : Prop where
  answers : execFor i n s = .next t
  shows : opTrace i n s = es
  busy : ∀ m < n, ∃ u, execFor i m s = .next u ∧ u.fgPc ≠ .ready

/-- The state with its bus lines driven as said and `fg_pc` where said. -/
def State.lines (s : State) (scl sda : Drive) (pc : FgPc) : State := { s with drvSCL := scl, drvSDA := sda, fgPc := pc }

/-- An action that only writes a bus line to a fixed drive state, or only waits (R82 to R84, R86). -/
def Action.isPin (a : Action) : Bool :=
  match a with
  | .release _ => true
  | .pullup _ => true
  | .low _ => true
  | .delay _ => true
  | _ => false

section
variable {i : Instr} {n m k : Nat} {a : Action} {s t u : State} {scl sda : Drive} {es es' : List Event}

theorem Runs.done (s : State) : Runs i 0 s s [] := ⟨rfl, rfl, fun _ h => absurd h (Nat.not_lt_zero _)⟩

theorem Runs.trans (h : Runs i m s t es) (h' : Runs i n t u es') : Runs i (m + n) s u (es ++ es') where
  answers := (iterate_trans h.answers).trans h'.answers
  shows := (observe_add h.answers).trans (congrArg₂ _ h.shows h'.shows)
  busy j hj := by
    by_cases hjm : j < m
    · exact h.busy j hjm
    · obtain ⟨d, rfl⟩ : ∃ d, j = m + d := ⟨j - m, by omega⟩
      rw [execFor, iterate_trans h.answers]
      exact h'.busy d (by omega)

theorem Runs.micro (hpc : s.fgPc = .running (opOf i) k) (ha : (programOf (opOf i))[k]? = some a)
    (hu : a.run s = .next u) : Runs i 1 s (following (opOf i) k u) (a.event s) := by
  have hexec : exec i s = .next (following (opOf i) k u) := by rw [exec_running hpc ha, hu, mapNext_next]
  refine ⟨?_, ?_, fun m hm => ⟨s, ?_, by simp [hpc]⟩⟩
  · rw [execFor, iterate_succ, hexec]
    rfl
  · rw [opTrace, observe_succ_next hexec]
    simp [fgEvents, hpc, ha]
  · obtain rfl := Nat.lt_one_iff.1 hm
    rfl

/-- One micro-step, then the rest. -/
theorem Runs.cons (hpc : s.fgPc = .running (opOf i) k) (ha : (programOf (opOf i))[k]? = some a)
    (hu : a.run s = .next u) (h : Runs i n (following (opOf i) k u) t es) (hes : a.event s ++ es = es') :
    Runs i (n + 1) s t es' := by
  rw [Nat.add_comm, ← hes]
  exact (Runs.micro hpc ha hu).trans h

/-! ### One kind of action -/

theorem run_pin (hpin : a.isPin = true) (pc : FgPc) :
    a.run (s.lines scl sda pc) = .next (s.lines ((a.sets .SCL s).getD scl) ((a.sets .SDA s).getD sda) pc) := by
  cases a with
  | release X => cases X <;> rfl
  | pullup X => cases X <;> rfl
  | low X => cases X <;> rfl
  | delay d => rfl
  | _ => cases hpin

theorem event_pin (hpin : a.isPin = true) (s t : State) : a.event s = a.event t := by
  cases a with
  | release X => rfl
  | pullup X => rfl
  | low X => rfl
  | delay d => rfl
  | _ => cases hpin

/-- A pin write or a delay, and what follows it. -/
theorem Runs.pinThen (ha : (programOf (opOf i))[k]? = some a) (hpin : a.isPin = true)
    (hnext : following (opOf i) k
      (s.lines ((a.sets .SCL s).getD scl) ((a.sets .SDA s).getD sda) (.running (opOf i) k)) = t)
    (hes : a.event s = es) : Runs i 1 (s.lines scl sda (.running (opOf i) k)) t es := by
  rw [← hnext, ← hes, event_pin hpin]
  exact .micro rfl ha (run_pin hpin _)

/-- A pin write or a delay after which the operation goes on to the next micro-step, then the rest. -/
theorem Runs.pin (ha : (programOf (opOf i))[k]? = some a) (hpin : a.isPin = true)
    (hnext : ∀ u, following (opOf i) k u = u.goto (opOf i) (k + 1))
    (h : Runs i n (s.lines ((a.sets .SCL s).getD scl) ((a.sets .SDA s).getD sda) (.running (opOf i) (k + 1))) t es)
    (hes : a.event s ++ es = es') : Runs i (n + 1) (s.lines scl sda (.running (opOf i) k)) t es' := by
  rw [Nat.add_comm, ← hes]
  exact (Runs.pinThen ha hpin (hnext _) rfl).trans h

/-- SDA set to a bit, after which the operation goes on to the next micro-step, then the rest (R90). -/
theorem Runs.putBit {src : BitSource} {b : Bool} (ha : (programOf (opOf i))[k]? = some (.sda src))
    (hbit : sourceBit src s = some b) (hnext : ∀ u, following (opOf i) k u = u.goto (opOf i) (k + 1))
    (h : Runs i n (s.lines scl (if b then .Z else .D0) (.running (opOf i) (k + 1))) t es) :
    Runs i (n + 1) (s.lines scl sda (.running (opOf i) k)) t ((if b then .d1 else .d0) :: es) := by
  have hbit' : sourceBit src (s.lines scl sda (.running (opOf i) k)) = some b := hbit ▸ by cases src <;> rfl
  refine .cons rfl ha (u := s.lines scl (if b then .Z else .D0) (.running (opOf i) k)) ?_ ?_ ?_ (es := es)
  · simp only [Action.run, hbit']
    cases b <;> rfl
  · rw [hnext]
    exact h
  · simp only [Action.event, hbit', List.singleton_append]

end

/-! ### The samples -/

/-- The state with ENV's answers to come taken from `e`: its list, and where the free values stand. -/
def State.withEnv (s e : State) : State := { s with envQ := e.envQ, freeCtr := e.freeCtr }

theorem envAnswer_withEnv (s e : State) : (s.withEnv e).envAnswer = (e.envAnswer.1, s.withEnv e.envAnswer.2) := by
  cases hq : e.envQ with
  | nil => simp [State.envAnswer, State.withEnv, hq]
  | cons l q => simp [State.envAnswer, State.withEnv, hq]

@[simp] theorem envAnswers_length (s : State) (n : Nat) : (s.envAnswers n).1.length = n := by
  induction n generalizing s with
  | zero => rfl
  | succ n ih => simp [State.envAnswers, ih]

theorem pinRead_withEnv (s e : State) (scl : Drive) (pc : FgPc) : ((s.withEnv e).lines scl .Z pc).pinRead .SDA =
    (e.envAnswer.1, (s.withEnv e.envAnswer.2).lines scl .Z pc) :=
  (pinRead_released rfl).trans (envAnswer_withEnv (s.lines scl .Z pc) e)

/-- The sample of a released SDA is ENV's next answer, then the rest (R85, R89). -/
theorem Runs.sample {i : Instr} {n k : Nat} {s e t : State} {scl : Drive} {es : List Event}
    (ha : (programOf (opOf i))[k]? = some .sampleSda) (hnext : ∀ u, following (opOf i) k u = u.goto (opOf i) (k + 1))
    (h : Runs i n (({ s with sample := e.envAnswer.1 }.withEnv e.envAnswer.2).lines scl .Z (.running (opOf i) (k + 1)))
      t es) :
    Runs i (n + 1) ((s.withEnv e).lines scl .Z (.running (opOf i) k)) t (.s e.envAnswer.1 :: es) := by
  refine .cons rfl ha rfl ?_ ?_ (es := es)
  · rw [hnext, pinRead_withEnv]
    exact h
  · simp only [Action.event, pinRead_withEnv, List.singleton_append]

/-! ### From the issue -/

section
variable {i : Instr} {n : Nat} {s t : State} {es : List Event}

/-- An operation from its issue at `READY`: the issue answers, and the micro-steps follow. -/
theorem execFor_issue (hpc : s.fgPc = .ready) : execFor i (n + 1) s = execFor i n (issued i s) := by
  rw [execFor, iterate_succ, exec_ready hpc]
  rfl

/-- The issue shows no event. -/
theorem opTrace_issue (hpc : s.fgPc = .ready) : opTrace i (n + 1) s = opTrace i n (issued i s) := by
  rw [opTrace, observe_succ_next (exec_ready hpc), fgEvents, hpc]
  rfl

theorem Runs.issue_answers (hpc : s.fgPc = .ready) (h : Runs i n (issued i s) t es) : execFor i (n + 1) s = .next t :=
  (execFor_issue hpc).trans h.answers

theorem Runs.issue_shows (hpc : s.fgPc = .ready) (h : Runs i n (issued i s) t es) : opTrace i (n + 1) s = es :=
  (opTrace_issue hpc).trans h.shows

/-- A run from the issue to `READY` ends there and not before (R107). -/
theorem Runs.issue_ends (hpc : s.fgPc = .ready) (h : Runs i n (issued i s) t es) (ht : t.fgPc = .ready) :
    (∃ t, execFor i (n + 1) s = .next t ∧ t.fgPc = .ready) ∧
      ∀ m, 1 ≤ m → m ≤ n → ∃ u, execFor i m s = .next u ∧ u.fgPc ≠ .ready := by
  refine ⟨⟨t, h.issue_answers hpc, ht⟩, fun m hm hmn => ?_⟩
  obtain ⟨m, rfl⟩ : ∃ m', m = m' + 1 := ⟨m - 1, by omega⟩
  rw [execFor_issue hpc]
  exact h.busy m (by omega)

end

end Sys2Proof.Machine
end

section
/-! SUPPORT. The run of each operation of a fixed length from its issue to `READY` (rules R101 to R107, R131). -/

namespace Sys2Proof.Machine

/-! ### The operations that read no bit -/

theorem busInit_runs (s : State) : Runs .busInit 2 (s.accept .busInit)
    (.complete { s with drvSCL := .Z, drvSDA := .Z } statusOk) [.c1, .d1] := by
  change Runs _ _ (s.lines s.drvSCL s.drvSDA (.running .busInit 0)) _ _
  refine .pin rfl rfl (fun _ => rfl) ?_ rfl
  exact .pinThen rfl rfl rfl rfl

theorem busStart_runs (s : State) : Runs .busStart 9 (s.accept .busStart)
    (.complete { s with drvSCL := .D0, drvSDA := .D0 } statusOk) [.dP, .d1, .tL, .cP, .c1, .tL, .d0, .tL, .c0] := by
  change Runs _ _ (s.lines s.drvSCL s.drvSDA (.running .busStart 0)) _ _
  iterate 8 refine .pin rfl rfl (fun _ => rfl) ?_ rfl
  exact .pinThen rfl rfl rfl rfl

theorem busStop_runs (s : State) : Runs .busStop 6 (s.accept .busStop)
    (.complete { s with drvSCL := .Z, drvSDA := .Z } statusOk) [.d0, .tL, .c1, .tL, .d1, .tL] := by
  change Runs _ _ (s.lines s.drvSCL s.drvSDA (.running .busStop 0)) _ _
  iterate 5 refine .pin rfl rfl (fun _ => rfl) ?_ rfl
  exact .pinThen rfl rfl rfl rfl

theorem rfInit_runs (s : State) : Runs .rfInit 3 (s.accept .rfInit)
    (.complete { s with drvRF := .D0, rfState := .IDLE, timerOn := true } statusOk) [] :=
  .cons rfl rfl rfl (.cons rfl rfl rfl (.cons rfl rfl rfl (.done _) rfl) rfl) rfl

/-! ### Bits written and bits read -/

section
variable {i : Instr} {n : Nat}

/-- The events of one bit written (R90). -/
def writtenBit (b : Bool) : List Event := [if b then .d1 else .d0, .tL, .c1, .tH, .c0]

/-- The events of a sampled clock pulse that samples `l` (R89). -/
def sampledPulse (l : Level) : List Event := [.tL, .c1, .th, .s l, .th, .c0]

theorem writeBit_runs (b : Byte) {s : State} (hn : s.i.toNat = n) (hn8 : n < 8) (sda : Drive) :
    Runs (.busWriteByte b) 5 (s.lines .D0 sda (.running .busWriteByte 1))
      (busWriteByteAfter 5 (s.lines .D0 (if s.sh.getLsbD n then .Z else .D0) (.running .busWriteByte 5)))
      (writtenBit (s.sh.getLsbD n)) := by
  refine .putBit rfl (b := s.sh.getLsbD n) (by simp [sourceBit, bitOf, hn, hn8]) (fun _ => rfl) ?_
  iterate 3 refine .pin rfl rfl (fun _ => rfl) ?_ rfl
  exact .pinThen rfl rfl rfl rfl

/-- The bit loop of `BUS_WRITE_BYTE` with `n + 1` bits to go (R104). -/
theorem writeBits_runs (b : Byte) {s : State} (hn : s.i.toNat = n) (hn8 : n < 8) (sda : Drive) :
    Runs (.busWriteByte b) (5 * (n + 1)) (s.lines .D0 sda (.running .busWriteByte 1))
      ({ s with i := 0 }.lines .D0 (if s.sh.getLsbD 0 then .Z else .D0) (.running .busWriteByte 6))
      (((List.range (n + 1)).reverse.map s.sh.getLsbD).flatMap writtenBit) := by
  induction n generalizing s sda with
  | zero =>
    have hbit := writeBit_runs b hn hn8 sda
    have hi : s.i = 0 := by bv_omega
    rw [busWriteByteAfter, if_pos (by exact hi)] at hbit
    rw [← hi]
    exact hbit
  | succ n ih =>
    have hbit := writeBit_runs b hn hn8 sda
    have hi : s.i ≠ 0 := by bv_omega
    rw [busWriteByteAfter, if_neg (by exact hi)] at hbit
    have hrest sda := ih (s := { s with i := s.i - 1 }) (by bv_omega) (by omega) sda
    rw [Nat.mul_add_one, Nat.add_comm, List.range_succ, List.reverse_append]
    exact hbit.trans (hrest _)

theorem readBit_runs (hi : i = .busReadByte ∨ i = .busReadBuffer) (s e : State) :
    Runs i 6 ((s.withEnv e).lines .D0 .Z (.running (opOf i) 2))
      (following (opOf i) 7
        (({ s with sample := e.envAnswer.1 }.withEnv e.envAnswer.2).lines .D0 .Z (.running (opOf i) 7)))
      (sampledPulse e.envAnswer.1) := by
  rcases hi with rfl | rfl
  all_goals
    iterate 3 refine .pin rfl rfl (fun _ => rfl) ?_ rfl
    refine .sample rfl (fun _ => rfl) ?_
    refine .pin rfl rfl (fun _ => rfl) ?_ rfl
    exact .pinThen rfl rfl rfl rfl

/-- After a bit read its level is shifted in, and the next bit or the byte's end follows (R91, R105, R106). -/
theorem following_readBit (hi : i = .busReadByte ∨ i = .busReadBuffer) (s : State) :
    following (opOf i) 7 s = if s.i = 0 then s.takeBit.goto (opOf i) 8
      else { s.takeBit with i := s.i - 1 }.goto (opOf i) 2 := by
  rcases hi with rfl | rfl <;> rfl

/-- The bit loop of the two reading operations with `n + 1` bits to go, ENV's answers taken from `e` (R105, R106). -/
theorem readBits_runs (hi : i = .busReadByte ∨ i = .busReadBuffer) {s : State} (hn : s.i.toNat = n) (e : State) :
    ∃ l, Runs i (6 * (n + 1)) ((s.withEnv e).lines .D0 .Z (.running (opOf i) 2))
      (({ s with sh := accumulate s.sh (e.envAnswers (n + 1)).1, i := 0, sample := l }.withEnv
        (e.envAnswers (n + 1)).2).lines .D0 .Z (.running (opOf i) 8))
      ((e.envAnswers (n + 1)).1.flatMap sampledPulse) := by
  induction n generalizing s e with
  | zero =>
    have hbit := readBit_runs hi s e
    have hi0 : s.i = 0 := by bv_omega
    rw [following_readBit hi, if_pos (by exact hi0)] at hbit
    rw [← hi0]
    exact ⟨_, hbit⟩
  | succ n ih =>
    have hbit := readBit_runs hi s e
    have hi0 : s.i ≠ 0 := by bv_omega
    rw [following_readBit hi, if_neg (by exact hi0)] at hbit
    obtain ⟨l, hrest⟩ := ih
      (s := { s with sh := shiftIn s.sh (bitOfLevel e.envAnswer.1), i := s.i - 1, sample := e.envAnswer.1 })
      (by bv_omega) e.envAnswer.2
    rw [Nat.mul_add_one, Nat.add_comm]
    exact ⟨l, hbit.trans hrest⟩

end

/-! ### The two byte operations -/

theorem busWriteByte_runs (b : Byte) (s : State) : Runs (.busWriteByte b) 48 (s.acceptByte b)
    (.complete (.dropByteWork (.withEnv { s with
      drvSCL := .D0
      drvSDA := .Z
      argByte := b
      resAck := ackCode s.envAnswer.1 } s.envAnswer.2)) statusOk)
    (Event.c0 :: (bitsMsbFirst b).flatMap writtenBit ++ Event.d1 :: sampledPulse s.envAnswer.1) := by
  have hfirst : Runs (.busWriteByte b) 1 (({ s with argByte := b }).lines s.drvSCL s.drvSDA (.running .busWriteByte 0))
      ({ s with argByte := b, sh := b, i := 7 }.lines .D0 s.drvSDA (.running .busWriteByte 1)) [.c0] :=
    .pinThen rfl rfl rfl rfl
  have hbits := writeBits_runs b (s := { s with argByte := b, sh := b, i := 7 }) (n := 7) rfl (by omega) s.drvSDA
  refine (hfirst.trans hbits).trans (n := 7) ?_
  change Runs _ _ (({ s with argByte := b, sh := b, i := 0 }.withEnv s).lines _ _ _) _ _
  iterate 4 refine .pin rfl rfl (fun _ => rfl) ?_ rfl
  refine .sample rfl (fun _ => rfl) ?_
  refine .pin rfl rfl (fun _ => rfl) ?_ rfl
  exact .pinThen rfl rfl rfl rfl

theorem busReadByte_runs (s : State) : Runs .busReadByte 55 (s.accept .busReadByte)
    (.complete (.dropByteWork (.withEnv { s with
      drvSCL := .D0
      drvSDA := .Z
      resByte := byteOfLevels (s.envAnswers 8).1 } (s.envAnswers 8).2)) statusOk)
    ([Event.c0, Event.d1] ++ (s.envAnswers 8).1.flatMap sampledPulse ++ writtenBit true) := by
  have hfirst : Runs .busReadByte 2 (s.lines s.drvSCL s.drvSDA (.running .busReadByte 0))
      (({ s with sh := 0, i := 7 }.withEnv s).lines .D0 .Z (.running .busReadByte 2)) [.c0, .d1] := by
    refine .pin rfl rfl (fun _ => rfl) ?_ rfl
    exact .pinThen rfl rfl rfl rfl
  obtain ⟨l, hbits⟩ := readBits_runs (i := .busReadByte) (.inl rfl) (s := { s with sh := 0, i := 7 }) (n := 7) rfl s
  refine (hfirst.trans hbits).trans (n := 5) ?_
  refine .putBit (b := true) rfl rfl (fun _ => rfl) ?_
  iterate 3 refine .pin rfl rfl (fun _ => rfl) ?_ rfl
  exact .pinThen rfl rfl rfl rfl

/-! ### `BUS_READ_BUFFER` -/

section
variable {n : Nat} {s e : State}

/-- The store of the byte read, then the rest (R96, R106). -/
theorem Runs.store {t : State} {es : List Event} (hfit : storeAddress s < s.params.space)
    (h : Runs .busReadBuffer n
      (({ s with mem := s.mem.write (storeAddress s) s.sh }.withEnv e).lines .D0 .Z (.running .busReadBuffer 9)) t es) :
    Runs .busReadBuffer (n + 1) ((s.withEnv e).lines .D0 .Z (.running .busReadBuffer 8)) t
      (.w (storeAddress s) s.sh :: es) := by
  have hin : ((s.withEnv e).lines .D0 .Z (.running .busReadBuffer 8)).inSpace (storeAddress s) = true :=
    decide_eq_true hfit
  refine .cons rfl rfl (if_pos hin) h ?_
  exact congrArg (· ++ es) (if_pos hin)

/-- The state with a byte read and stored: the byte of ENV's answers in `e`, the last sample of it `l` (R106). -/
def State.afterByte (s e : State) (l : Level) : State :=
  { s with
    sh := byteOfLevels (e.envAnswers 8).1
    i := 0
    sample := l
    mem := s.mem.write (storeAddress s) (byteOfLevels (e.envAnswers 8).1) }

/-- The start of the first byte of `BUS_READ_BUFFER` (R106). -/
def State.firstByte (s : State) : State := { s.beginRead with k := 0 }

/-- The start of the byte after the one just read and stored (R106). -/
def State.nextByte (s e : State) (l : Level) : State := { (s.afterByte e l).beginRead with k := s.k + 1 }

/-- Where `BUS_READ_BUFFER` ends from the start of a byte with `n` bytes to go, ENV's answers taken from `e` (R106). -/
def State.readBufferEnd (s e : State) (n : Nat) : State :=
  .complete (.dropBufferWork (.withEnv { s with
    drvSCL := .D0
    drvSDA := .Z
    mem := storeBytes s.mem (storeAddress s) (e.envBytes n).1 } (e.envBytes n).2)) statusOk

theorem storeAddress_nextByte (s e : State) (l : Level) : storeAddress (s.nextByte e l) = storeAddress s + 1 := rfl

theorem readBufferEnd_last (s e : State) (l : Level) :
    ((((s.afterByte e l).withEnv (e.envAnswers 8).2).lines .D0 .Z
      (.running .busReadBuffer 13)).dropBufferWork.complete statusOk) = s.readBufferEnd e 1 := by
  simp only [State.readBufferEnd, State.envBytes, storeBytes]
  simp only [State.afterByte, State.withEnv, State.lines, State.dropBufferWork, State.dropByteWork, State.complete]

theorem readBufferEnd_nextByte (s e : State) (l : Level) (n : Nat) :
    (s.nextByte e l).readBufferEnd (e.envAnswers 8).2 n = s.readBufferEnd e (n + 1) := by
  simp only [State.readBufferEnd, storeAddress_nextByte, State.envBytes, storeBytes]
  simp only [State.nextByte, State.afterByte, State.beginRead, State.withEnv, State.dropBufferWork,
    State.dropByteWork, State.complete]

/-- The events of the byte loop: the bits, the store and the ninth pulse of one byte, the release after an
acknowledgement, then the bytes left. -/
theorem readTrace_succ (a n : Nat) (e : State) : readTrace a (n + 1) e =
    ((e.envAnswers 8).1.flatMap sampledPulse ++ Event.w a (byteOfLevels (e.envAnswers 8).1) ::
      writtenBit (decide (n = 0))) ++
        ((if n = 0 then [] else [Event.d1]) ++ readTrace (a + 1) n (e.envAnswers 8).2) := by
  cases n <;> simp [readTrace, writtenBit] <;> rfl

/-- One byte of `BUS_READ_BUFFER`: eight samples, the store, and the ninth pulse up to what follows it (R106). -/
theorem readBufferByte_runs (hsh : s.sh = 0) (hi : s.i = 7) (hfit : storeAddress s < s.params.space) (e : State) :
    ∃ l, Runs .busReadBuffer 54 ((s.withEnv e).lines .D0 .Z (.running .busReadBuffer 2))
      (busReadBufferAfter 13 (((s.afterByte e l).withEnv (e.envAnswers 8).2).lines
        .D0 (if !decide (s.k + 1 < s.argLen) then .Z else .D0) (.running .busReadBuffer 13)))
      ((e.envAnswers 8).1.flatMap sampledPulse ++ Event.w (storeAddress s) (byteOfLevels (e.envAnswers 8).1) ::
        writtenBit (!decide (s.k + 1 < s.argLen))) := by
  obtain ⟨l, hbits⟩ := readBits_runs (i := .busReadBuffer) (.inr rfl) (s := s) (n := 7) (by rw [hi]; rfl) e
  rw [hsh] at hbits
  refine ⟨l, hbits.trans (n := 6) ?_⟩
  refine .store hfit ?_
  refine .putBit (b := !decide (s.k + 1 < s.argLen)) rfl rfl (fun _ => rfl) ?_
  iterate 3 refine .pin rfl rfl (fun _ => rfl) ?_ rfl
  exact .pinThen rfl rfl rfl rfl

/-- The byte loop of `BUS_READ_BUFFER` with `n + 1` bytes to go, ENV's answers taken from `e` (R106). -/
theorem readBufferBytes_runs (hsh : s.sh = 0) (hi : s.i = 7) (hn : s.k + (n + 1) = s.argLen)
    (hfit : s.argPtr + s.argLen ≤ s.params.space) (e : State) :
    Runs .busReadBuffer (55 * n + 54) ((s.withEnv e).lines .D0 .Z (.running .busReadBuffer 2))
      (s.readBufferEnd e (n + 1)) (readTrace (storeAddress s) (n + 1) e) := by
  induction n generalizing s e with
  | zero =>
    obtain ⟨l, hbyte⟩ := readBufferByte_runs hsh hi (by unfold storeAddress; omega) e
    have hlast : ¬s.k + 1 < s.argLen := by omega
    rw [busReadBufferAfter, if_neg (by exact hlast), decide_eq_false hlast, Bool.not_false, if_pos rfl,
      readBufferEnd_last] at hbyte
    rw [readTrace_succ, decide_eq_true rfl, readTrace, if_pos rfl, List.append_nil, List.append_nil]
    exact hbyte
  | succ n ih =>
    obtain ⟨l, hbyte⟩ := readBufferByte_runs hsh hi (by unfold storeAddress; omega) e
    have hmore : s.k + 1 < s.argLen := by omega
    rw [busReadBufferAfter, if_pos (by exact hmore), decide_eq_true hmore] at hbyte
    have hrelease : Runs .busReadBuffer 1
        (((s.afterByte e l).withEnv (e.envAnswers 8).2).lines .D0 .D0 (.running .busReadBuffer 14))
        (((s.nextByte e l).withEnv (e.envAnswers 8).2).lines .D0 .Z (.running .busReadBuffer 2)) [.d1] :=
      .pinThen rfl rfl rfl rfl
    have hn' : (s.k + 1) + (n + 1) = s.argLen := by omega
    have hrest := ih (s := s.nextByte e l) rfl rfl hn' hfit (e.envAnswers 8).2
    rw [storeAddress_nextByte, readBufferEnd_nextByte] at hrest
    rw [readTrace_succ, decide_eq_false (by omega), if_neg (by omega),
      show 55 * (n + 1) + 54 = 54 + (1 + (55 * n + 54)) by omega]
    exact hbyte.trans (hrelease.trans hrest)

theorem acceptReadBuffer_fits (hlen : 1 ≤ s.argLen) (hfit : s.argPtr + s.argLen ≤ 2 ^ s.params.addrBits) :
    s.acceptReadBuffer = s.accept .busReadBuffer := by
  have hin : s.bufferFits = true := decide_eq_true hfit
  rw [State.acceptReadBuffer, if_neg (by omega), if_pos hin]

theorem busReadBuffer_runs (hlen : 1 ≤ s.argLen) (hfit : s.argPtr + s.argLen ≤ 2 ^ s.params.addrBits) :
    Runs .busReadBuffer (55 * s.argLen + 1) s.acceptReadBuffer (s.firstByte.readBufferEnd s s.argLen)
      ([Event.c0, Event.d1] ++ readTrace s.argPtr s.argLen s) := by
  have hfirst : Runs .busReadBuffer 2 (s.lines s.drvSCL s.drvSDA (.running .busReadBuffer 0))
      ((s.firstByte.withEnv s).lines .D0 .Z (.running .busReadBuffer 2)) [.c0, .d1] := by
    refine .pin rfl rfl (fun _ => rfl) ?_ rfl
    exact .pinThen rfl rfl rfl rfl
  obtain ⟨n, hn⟩ : ∃ n, s.argLen = n + 1 := ⟨s.argLen - 1, by omega⟩
  have hbytes := readBufferBytes_runs (s := s.firstByte) rfl rfl (n := n) ((Nat.zero_add _).trans hn.symm) hfit s
  rw [acceptReadBuffer_fits hlen hfit, hn, show 55 * (n + 1) + 1 = 2 + (55 * n + 54) by omega]
  exact hfirst.trans hbytes

end

end Sys2Proof.Machine
end

section
/-! SUPPORT. What each bus operation does from its issue to its end: its final state, its events, its number of
micro-steps (rules R101 to R107). -/

namespace Sys2Proof.Machine

/-- At `READY` only the status of a completion shows. -/
theorem complete_ready {s : State} (hpc : s.fgPc = .ready) (status : BitVec 2) :
    s.complete status = { s with resStatus := status } := by
  rw [State.complete, ← hpc]

theorem Runs.issue_completes {i : Instr} {n : Nat} {s u : State} {status : BitVec 2} {es : List Event}
    (h : Runs i n (issued i s) (u.complete status) es) (hpc : s.fgPc = .ready) (hu : u.fgPc = .ready) :
    execFor i (n + 1) s = .next { u with resStatus := status } := by
  rw [h.issue_answers hpc, complete_ready hu]

/-- Settles O14: the run of its two micro-steps. -/
theorem busInitReleasesBothLines : Obligations.BusInitReleasesBothLines := by
  intro s hpc
  exact ⟨exec_ready hpc, (busInit_runs s).issue_completes hpc hpc, (busInit_runs s).issue_shows hpc⟩

/-- Settles O15: the run of its nine micro-steps. -/
theorem busStartRunsItsProgram : Obligations.BusStartRunsItsProgram := by
  intro s hpc
  exact ⟨exec_ready hpc, (busStart_runs s).issue_completes hpc hpc, (busStart_runs s).issue_shows hpc⟩

/-- Settles O16: the run of its six micro-steps. -/
theorem busStopRunsItsProgram : Obligations.BusStopRunsItsProgram := by
  intro s hpc
  exact ⟨exec_ready hpc, (busStop_runs s).issue_completes hpc hpc, (busStop_runs s).issue_shows hpc⟩

theorem ackCode_eq (l : Level) : ackCode l = if l = .L then 0 else 1 := by
  cases l <;> rfl

/-- Settles O17: the first micro-step, the loop over eight bits, then the sampled ninth pulse. -/
theorem busWriteByteSendsAndReportsAck : Obligations.BusWriteByteSendsAndReportsAck := by
  intro b s hpc
  have hrun := busWriteByte_runs b s
  refine ⟨exec_ready hpc, ⟨_, hrun.issue_answers hpc, ?_⟩, hrun.issue_shows hpc⟩
  simp only [State.complete, State.dropByteWork, State.withEnv, ackCode_eq, hpc]
  rfl

/-- Settles O18: the two first micro-steps, the loop over eight samples, then the released ninth pulse. -/
theorem busReadByteReturnsTheSampledByte : Obligations.BusReadByteReturnsTheSampledByte := by
  intro s hpc
  have hrun := busReadByte_runs s
  refine ⟨exec_ready hpc, ⟨_, hrun.issue_answers hpc, ?_⟩, hrun.issue_shows hpc⟩
  simp only [State.complete, State.dropByteWork, State.withEnv, hpc]
  rfl

/-- Settles O20: the two first micro-steps, then the loop over the bytes. -/
theorem busReadBufferStoresTheBytesInOrder : Obligations.BusReadBufferStoresTheBytesInOrder := by
  intro s hpc hlen hfit
  have hrun := busReadBuffer_runs hlen hfit
  refine ⟨?_, Runs.issue_shows hpc hrun, _, Runs.issue_answers hpc hrun, ?_⟩
  · rw [exec_ready hpc, issued, acceptReadBuffer_fits hlen hfit]
    rfl
  · simp only [State.readBufferEnd, State.complete, State.dropBufferWork, State.dropByteWork, State.withEnv, hpc]
    rfl

/-- Settles O21: the two checks at issue, an empty buffer first. -/
theorem busReadBufferEmptyOrPastTheTop : Obligations.BusReadBufferEmptyOrPastTheTop := by
  intro s hpc
  rw [exec_ready hpc, issued, State.acceptReadBuffer]
  refine ⟨fun hempty => ?_, fun hlen htop => ?_⟩
  · rw [if_pos hempty, complete_ready hpc]
    rfl
  · have hpast : s.bufferFits = false := decide_eq_false (not_le.2 htop)
    rw [if_neg (by omega), hpast]
    rfl

/-- Settles O30: each run ends at `READY`, and before each of its micro-steps the operation is in progress. -/
theorem operationsEndOnTheirFixedCount : Obligations.OperationsEndOnTheirFixedCount := by
  intro s i n hpc hfit hn
  cases i with
  | busInit => cases hn; exact (busInit_runs s).issue_ends hpc rfl
  | busStart => cases hn; exact (busStart_runs s).issue_ends hpc rfl
  | busStop => cases hn; exact (busStop_runs s).issue_ends hpc rfl
  | busWriteByte b => cases hn; exact (busWriteByte_runs b s).issue_ends hpc rfl
  | busReadByte => cases hn; exact (busReadByte_runs s).issue_ends hpc rfl
  | busReadBuffer =>
    simp only [microSteps] at hn
    split at hn
    · next hempty =>
      cases hn
      refine Runs.issue_ends hpc (.done _) ?_
      rw [issued, State.acceptReadBuffer, if_pos hempty]
      rfl
    · next hlen =>
      cases hn
      exact Runs.issue_ends hpc (busReadBuffer_runs (Nat.pos_of_ne_zero hlen) (hfit rfl)) rfl
  | rfInit => cases hn; exact (rfInit_runs s).issue_ends hpc rfl
  | rfTransmitBuffer => cases hn
  | rfTransmitPacket => cases hn; exact Runs.issue_ends hpc (.done _) hpc

end Sys2Proof.Machine
end

section
/-! SUPPORT. What the bus operations show on the wires, and where SDA may change (rules R61, R62, R100, R110). -/

namespace Sys2Proof.Machine

/-! ### The levels at the clock highs -/

/-- Bits written from any level on SDA show at their clock highs; what is sent next sets SDA first. -/
theorem clockHighs_writtenBits (sda : Level) (bits : List Bool) (es : List Event) :
    clockHighs sda (bits.flatMap writtenBit ++ .d1 :: es) = bits.map levelOfBit ++ clockHighs .H es := by
  induction bits generalizing sda with
  | nil => rfl
  | cons b bits ih =>
    cases b
    · exact congrArg (Level.L :: ·) (ih .L)
    · exact congrArg (Level.H :: ·) (ih .H)

/-- Sampled pulses leave SDA as it is driven. -/
theorem clockHighs_sampledPulses (sda : Level) (ls : List Level) (es : List Event) :
    clockHighs sda (ls.flatMap sampledPulse ++ es) = List.replicate ls.length sda ++ clockHighs sda es := by
  induction ls with
  | nil => rfl
  | cons l ls ih => exact congrArg (sda :: ·) ih

/-- Settles O23: the bits written show at eight clock highs, and SDA is released before the ninth. -/
theorem writtenBitsShowMsbFirst : Obligations.WrittenBitsShowMsbFirst := by
  intro b s hpc
  rw [(busWriteByte_runs b s).issue_shows hpc]
  exact clockHighs_writtenBits _ _ _

theorem clockHighs_readTrace (a n : Nat) (e : State) : clockHighs .H (readTrace a (n + 1) e) =
    (List.replicate n (List.replicate 8 Level.H ++ [Level.L])).flatten ++ List.replicate 9 Level.H := by
  induction n generalizing a e with
  | zero =>
    rw [readTrace_succ, List.append_assoc, clockHighs_sampledPulses, envAnswers_length]
    rfl
  | succ n ih =>
    rw [readTrace_succ, List.append_assoc, clockHighs_sampledPulses, envAnswers_length,
      List.replicate_succ (n := n), List.flatten_cons, List.append_assoc, List.append_assoc,
      ← ih (a + 1) (e.envAnswers 8).2]
    rfl

/-- Settles O25: the first micro-steps release SDA, and each byte but the last ends with an acknowledgement. -/
theorem readBufferAcknowledgesAllButTheLast : Obligations.ReadBufferAcknowledgesAllButTheLast := by
  intro s hpc hlen hfit
  obtain ⟨n, hn⟩ : ∃ n, s.argLen = n + 1 := ⟨s.argLen - 1, by omega⟩
  rw [Runs.issue_shows hpc (busReadBuffer_runs hlen hfit), hn]
  exact clockHighs_readTrace _ _ _

/-! ### START and STOP -/

/-- A state at `READY` by its two bus lines: all that the wires of `BUS_INIT`, `BUS_START` and `BUS_STOP` read of it. -/
theorem eq_lines_ready {s : State} (hpc : s.fgPc = .ready) : s = s.lines s.drvSCL s.drvSDA .ready := by
  rw [State.lines, ← hpc]

/-- Settles O26: from each rest state the wires of the three operations, step by step. -/
theorem startAndStopConditionsFromEachRestState : Obligations.StartAndStopConditionsFromEachRestState := by
  intro s hpc hrest
  rw [eq_lines_ready hpc]
  rcases hrest with ⟨hscl, hsda⟩ | ⟨hscl, hsda⟩ | ⟨hscl, hsda⟩
  all_goals
    rw [hscl, hsda]
    exact ⟨rfl, rfl, rfl⟩

/-- Settles O24: `BUS_START` ends with both lines low, and the wires of the two operations follow step by step. -/
theorem startThenStopIsOneOfEach : Obligations.StartThenStopIsOneOfEach := by
  intro s hpc hscl hsda
  obtain ⟨-, hstart, -⟩ := busStartRunsItsProgram s hpc
  obtain ⟨-, hstop, -⟩ := busStopRunsItsProgram { s with drvSCL := .D0, drvSDA := .D0, resStatus := 0 } hpc
  refine ⟨_, _, hstart, hstop, ?_, rfl, rfl⟩
  rw [eq_lines_ready hpc, hscl, hsda]
  rfl

/-! ### SDA changes while SCL is low -/

/-- The bus line an action writes (R82 to R84, R90). -/
def Action.line (a : Action) : Option Line :=
  match a with
  | .release X => some X
  | .pullup X => some X
  | .low X => some X
  | .sda _ => some .SDA
  | _ => none

theorem sets_of_line_ne {a : Action} {X : Line} (h : a.line ≠ some X) (s : State) : a.sets X s = none := by
  cases a with
  | release Y => exact if_neg fun hY => h (congrArg some hY)
  | pullup Y => exact if_neg fun hY => h (congrArg some hY)
  | low Y => exact if_neg fun hY => h (congrArg some hY)
  | sda b => exact if_neg fun hX => h (congrArg some hX.symm)
  | _ => rfl

/-- Outside `BUS_INIT`, `BUS_START` and `BUS_STOP` every write of SDA stands where SCL is low (R100). -/
theorem writesSDA_at {op : Op} {k : Nat} {a : Action} (h : (programOf op)[k]? = some a) (hw : a.line = some .SDA)
    (hop : op ≠ .busInit ∧ op ≠ .busStart ∧ op ≠ .busStop) : expectedSCL op k = some .D0 :=
  microStep_forall
    (P := fun op k a => a.line = some .SDA → op ≠ .busInit ∧ op ≠ .busStart ∧ op ≠ .busStop →
      expectedSCL op k = some .D0)
    (by intro op; cases op <;> decide) h hw hop

/-- Settles O27: a micro-step that writes SDA finds SCL low and leaves it; every other leaves SDA. -/
theorem dataChangesOnlyWhileClockIsLow : Obligations.DataChangesOnlyWhileClockIsLow := by
  intro s t op k hs hpc hinit hstart hstop h hne
  rw [fgStep_running hpc] at h
  rcases exec_next h with ⟨hready, -⟩ | ⟨k', a, u, hpc', ha, hu, rfl⟩
  · simp [hpc] at hready
  rw [opOf_instrOf] at hpc' ha hne ⊢
  obtain rfl : k = k' := by simpa [hpc] using hpc'
  have hSDA : u.drvSDA = (a.sets .SDA s).getD s.drvSDA := action_drive hu .SDA
  have hSCL : u.drvSCL = (a.sets .SCL s).getD s.drvSCL := action_drive hu .SCL
  by_cases hw : a.line = some .SDA
  · obtain ⟨-, hat, -⟩ := hs
    have hlow : s.drvSCL = .D0 := (hat op k hpc).1 _ (writesSDA_at ha hw ⟨hinit, hstart, hstop⟩)
    rw [sets_of_line_ne (by simp [hw])] at hSCL
    rw [following_drvSCL, hSCL]
    exact ⟨hlow, hlow⟩
  · rw [sets_of_line_ne hw] at hSDA
    exact absurd (by simp [wires, wiresWith, hSDA]) hne

end Sys2Proof.Machine
end

section
/-! SUPPORT. What one foreground step of each bus operation may write (rules R101 to R106). -/

namespace Sys2Proof.Machine

/-! ### Micro-steps -/

/-- A sample alone uses an answer of ENV. -/
theorem action_env {a : Action} {s u : State} (h : a.run s = .next u) :
    a = .sampleSda ∨ u.sample = s.sample ∧ u.envQ = s.envQ ∧ u.freeCtr = s.freeCtr := by
  cases a with
  | release X => cases X <;> cases h <;> simp
  | pullup X => cases X <;> cases h <;> simp
  | low X => cases X <;> cases h <;> simp
  | sampleSda => exact .inl rfl
  | sda b =>
    simp only [Action.run] at h
    split at h
    · next v _ => cases v <;> cases h <;> simp [State.putBit]
    · cases h
  | storeByte => obtain ⟨-, rfl⟩ := State.memWrite_next h; simp
  | _ => cases h; simp

section
variable {op : Op} {k : Nat} {a : Action} {s u : State}

/-- A micro-step of a bus operation writes no radio element and not `timer_on`. -/
theorem busAction_frame (ha : (programOf op)[k]? = some a) (hu : a.run s = .next u)
    (hbus : op ≠ .rfInit ∧ op ≠ .rfTransmitBuffer) :
    u = { s with
      drvSCL := u.drvSCL
      drvSDA := u.drvSDA
      sample := u.sample
      mem := u.mem
      envQ := u.envQ
      freeCtr := u.freeCtr } := by
  obtain ⟨hinit, htransmit⟩ := hbus
  have hw := action_writes hu
  have hdrvRF : u.drvRF = s.drvRF := hw.drvRF.resolve_right fun ⟨_, h⟩ => hinit (rfSet_at (h ▸ ha)).1
  have hrf : u.rfState = s.rfState := hw.rfState.resolve_right fun h => by
    rcases rfWrite_at (h ▸ ha) with ⟨h, -⟩ | ⟨h, -⟩
    · exact hinit h
    · exact htransmit h
  have hbuf : u.txBuf = s.txBuf := hw.txBuf.trans (if_neg fun h => htransmit ((writeTxBuf_at ha).1 h).1)
  have hlen : u.txLen = s.txLen := hw.txLen.trans (if_neg fun h => htransmit ((writeTxLen_at ha).1 h).1)
  have htimer : u.timerOn = s.timerOn := hw.timerOn.trans (if_neg fun h => hinit ((timerStart_at ha).1 h).1)
  have hframe := action_frame hu
  rw [hdrvRF, hrf, hbuf, hlen, htimer] at hframe
  exact hframe

/-- Outside `BUS_READ_BUFFER` a micro-step of a bus operation leaves memory too. -/
theorem busAction_frame_of_ne_readBuffer (ha : (programOf op)[k]? = some a) (hu : a.run s = .next u)
    (hbus : op ≠ .rfInit ∧ op ≠ .rfTransmitBuffer) (hbuffer : op ≠ .busReadBuffer) :
    u = { s with
      drvSCL := u.drvSCL
      drvSDA := u.drvSDA
      sample := u.sample
      envQ := u.envQ
      freeCtr := u.freeCtr } := by
  have hmem : u.mem = s.mem := (action_mem hu).trans (if_neg fun h => hbuffer ((storeByte_at ha).1 h).1)
  have hframe := busAction_frame ha hu hbus
  rw [hmem] at hframe
  exact hframe

/-- A micro-step of an operation that reads no bit writes the bus lines alone. -/
theorem busAction_frame_of_no_sample (ha : (programOf op)[k]? = some a) (hu : a.run s = .next u)
    (hop : op = .busInit ∨ op = .busStart ∨ op = .busStop) :
    u = { s with drvSCL := u.drvSCL, drvSDA := u.drvSDA } := by
  have hbus : op ≠ .rfInit ∧ op ≠ .rfTransmitBuffer := by rcases hop with rfl | rfl | rfl <;> decide
  have hbytes : op ≠ .busWriteByte ∧ op ≠ .busReadByte ∧ op ≠ .busReadBuffer := by
    rcases hop with rfl | rfl | rfl <;> decide
  obtain ⟨hsample, hq, hctr⟩ := (action_env hu).resolve_left fun h => by
    have := sampleSda_at (h ▸ ha)
    tauto
  have hframe := busAction_frame_of_ne_readBuffer ha hu hbus hbytes.2.2
  rw [hsample, hq, hctr] at hframe
  exact hframe

theorem following_eq_straight (hop : op = .busInit ∨ op = .busStart ∨ op = .busStop) (k : Nat) (s : State) :
    following op k s = straight op (programOf op) k s := by
  rcases hop with rfl | rfl | rfl <;> rfl

end

/-! ### Foreground steps -/

section
variable {s t : State}

theorem busLines_frame {i : Instr} (hi : i = .busInit ∨ i = .busStart ∨ i = .busStop) (h : exec i s = .next t) :
    t = { s with drvSCL := t.drvSCL, drvSDA := t.drvSDA, resStatus := t.resStatus, fgPc := t.fgPc } := by
  rcases exec_next h with ⟨-, rfl⟩ | ⟨k, a, u, -, ha, hu, rfl⟩
  · rcases hi with rfl | rfl | rfl <;> rfl
  · have hop : opOf i = .busInit ∨ opOf i = .busStart ∨ opOf i = .busStop := by
      rcases hi with rfl | rfl | rfl <;> decide
    have hfollow := straight_frame (opOf i) (programOf (opOf i)) k u
    rw [← following_eq_straight hop] at hfollow
    generalize following (opOf i) k u = t at hfollow
    rw [hfollow, busAction_frame_of_no_sample ha hu hop]

theorem busWriteByte_frame {b : Byte} (h : exec (.busWriteByte b) s = .next t) :
    t = { s with
      drvSCL := t.drvSCL
      drvSDA := t.drvSDA
      argByte := if s.fgPc = .ready then b else s.argByte
      sh := t.sh
      i := t.i
      sample := t.sample
      resStatus := t.resStatus
      resAck := t.resAck
      fgPc := t.fgPc
      envQ := t.envQ
      freeCtr := t.freeCtr } := by
  rcases exec_next h with ⟨hpc, rfl⟩ | ⟨k, a, u, hpc, ha, hu, rfl⟩
  · rw [if_pos hpc]
    rfl
  · have hfollow : following (opOf (.busWriteByte b)) k u = _ := busWriteByteAfter_frame k u
    generalize following (opOf (.busWriteByte b)) k u = t at hfollow
    rw [if_neg (by simp [hpc]), hfollow,
      busAction_frame_of_ne_readBuffer (op := .busWriteByte) ha hu (by decide) (by decide)]

theorem busReadByte_frame (h : exec .busReadByte s = .next t) :
    t = { s with
      drvSCL := t.drvSCL
      drvSDA := t.drvSDA
      sh := t.sh
      i := t.i
      sample := t.sample
      resStatus := t.resStatus
      resByte := t.resByte
      fgPc := t.fgPc
      envQ := t.envQ
      freeCtr := t.freeCtr } := by
  rcases exec_next h with ⟨-, rfl⟩ | ⟨k, a, u, -, ha, hu, rfl⟩
  · rfl
  · have hfollow : following (opOf .busReadByte) k u = _ := busReadByteAfter_frame k u
    generalize following (opOf .busReadByte) k u = t at hfollow
    rw [hfollow, busAction_frame_of_ne_readBuffer ha hu (by decide) (by decide)]

theorem busReadBuffer_frame (h : exec .busReadBuffer s = .next t) :
    t = { s with
      drvSCL := t.drvSCL
      drvSDA := t.drvSDA
      sh := t.sh
      i := t.i
      k := t.k
      sample := t.sample
      resStatus := t.resStatus
      fgPc := t.fgPc
      mem := t.mem
      envQ := t.envQ
      freeCtr := t.freeCtr } := by
  rcases exec_next h with ⟨-, rfl⟩ | ⟨k, a, u, -, ha, hu, rfl⟩
  · simp only [issued]
    unfold State.acceptReadBuffer
    split
    · rfl
    · split <;> rfl
  · have hfollow : following (opOf .busReadBuffer) k u = _ := busReadBufferAfter_frame k u
    generalize following (opOf .busReadBuffer) k u = t at hfollow
    rw [hfollow, busAction_frame ha hu (by decide)]

end

/-- Settles O47: what the issue writes, and what a micro-step's action and the part that follows it write. -/
theorem busOperationFrame : Obligations.BusOperationFrame := by
  intro i s t h
  refine ⟨fun hi => busLines_frame hi h, ?_, ?_, ?_⟩
  · rintro b rfl
    exact busWriteByte_frame h
  · rintro rfl
    exact busReadByte_frame h
  · rintro rfl
    exact busReadBuffer_frame h

end Sys2Proof.Machine
end

section
/-! SUPPORT. The six tick rules, one equation each (rules R136 to R141). -/

namespace Sys2Proof.Machine

section
variable {s : State}

theorem tick_idle (h : s.rfState = .IDLE) : tickHandler s = .next s := by
  simp only [tickHandler, h, tickIdle]

theorem tick_start (h : s.rfState = .START) : tickHandler s =
    .next { s with byteIdx := 0, bitIdx := 0, leadinCnt := 0, drvRF := .Z, rfState := .LEAD_IN } := by
  simp only [tickHandler, h, tickStart]
  rfl

theorem tick_leadIn (h : s.rfState = .LEAD_IN) : tickHandler s = .next { s with
    drvRF := .Z
    leadinCnt := s.leadinCnt + 1
    rfState := if s.leadinCnt + 1 = s.params.leadInTicks then .BIT_PHASE1 else .LEAD_IN } := by
  simp only [tickHandler, h, tickLeadIn]
  rfl

theorem tick_end (h : s.rfState = .END) : tickHandler s = .next { s with drvRF := .D0, rfState := .IDLE } := by
  simp only [tickHandler, h, tickEnd]
  rfl

/-- Settles O40: the rules of the four states that load nothing. -/
theorem idleStartLeadInAndEndTicks : Obligations.IdleStartLeadInAndEndTicks := fun _ =>
  ⟨tick_idle, tick_start, tick_leadIn, tick_end⟩

theorem currentBit_eq (v : Byte) {j : Nat} (h : j ≤ 7) : currentBit v j = some (v.getLsbD (7 - j)) := by
  rw [currentBit, bitOf, if_pos (by omega), if_pos (by omega)]

/-- The first half-symbol of the bit at `bit_idx` of the byte loaded (R139). -/
theorem tick_bitPhase1 (h : s.rfState = .BIT_PHASE1) (hload : loadAddress s < s.params.space) (hbit : s.bitIdx ≤ 7) :
    tickHandler s = .next { s with
      drvRF := rfDriveOf (firstHalf ((s.mem.read (loadAddress s)).getLsbD (7 - s.bitIdx)))
      rfState := .BIT_PHASE2 } := by
  simp only [tickHandler, h, tickBitPhase1, State.memRead_eq hload, currentBit_eq _ hbit]
  rfl

theorem rfDriveOf_firstHalf (b : Bool) : rfDriveOf (firstHalf b) = if b = true then .D0 else .Z := by
  cases b <;> rfl

/-- Settles O41: the load finds its byte and the byte its bit, which shows inverted. -/
theorem firstHalfTickShowsTheInvertedBit : Obligations.FirstHalfTickShowsTheInvertedBit := by
  intro s hrf hload hbit
  rw [tick_bitPhase1 hrf hload hbit, rfDriveOf_firstHalf]
  rfl

/-- The second half-symbol of a bit that is not the last of its byte (R140). -/
theorem tick_bitPhase2 (h : s.rfState = .BIT_PHASE2) (hbit : s.bitIdx ≠ 7) : tickHandler s = .next { s with
    drvRF := rfDriveOf s.rfLevel.complement
    bitIdx := s.bitIdx + 1
    rfState := if s.byteIdx = s.txLen then .END else .BIT_PHASE1 } := by
  have hmore : ¬s.bitIdx + 1 = 8 := by omega
  simp only [tickHandler, h, tickBitPhase2, if_neg hmore]
  rfl

/-- The second half-symbol of the last bit of a byte (R140). -/
theorem tick_bitPhase2_byteDone (h : s.rfState = .BIT_PHASE2) (hbit : s.bitIdx = 7) : tickHandler s = .next { s with
    drvRF := rfDriveOf s.rfLevel.complement
    bitIdx := 0
    byteIdx := s.byteIdx + 1
    rfState := if s.byteIdx + 1 = s.txLen then .END else .BIT_PHASE1 } := by
  simp only [tickHandler, h, tickBitPhase2, hbit, if_true]
  rfl

theorem rfDriveOf_complement (s : State) :
    rfDriveOf s.rfLevel.complement = if s.drvRF = .D0 then .Z else .D0 := by
  unfold State.rfLevel
  cases s.drvRF <;> rfl

/-- Settles O42: the two cases of the rule, inside a byte and at its last bit. -/
theorem secondHalfTickComplementsAndCounts : Obligations.SecondHalfTickComplementsAndCounts := by
  intro s hrf
  rw [← rfDriveOf_complement]
  exact ⟨tick_bitPhase2 hrf, tick_bitPhase2_byteDone hrf⟩

end

end Sys2Proof.Machine
end

section
/-! SUPPORT. The frame law: the ticks a transmission still has before it, and what each of them takes off (rules
R66, R142). -/

namespace Sys2Proof.Machine

/-! ### The bits still to send -/

/-- The data bits of the `n` bytes at `a` from bit `j` of the first on, in the order they are sent (R43). -/
def bitsFrom (m : Memory) (a n j : Nat) : List Bool := (bitStream (bytesAt m a n)).drop j

theorem bitsFrom_zero (m : Memory) (a j : Nat) : bitsFrom m a 0 j = [] := List.drop_nil

theorem bitsMsbFirst_length (v : Byte) : (bitsMsbFirst v).length = 8 := rfl

theorem bytesAt_length (m : Memory) (a n : Nat) : (bytesAt m a n).length = n := by
  induction n generalizing a with
  | zero => rfl
  | succ n ih => rw [bytesAt, List.length_cons, ih]

theorem bitStream_length (vs : List Byte) : (bitStream vs).length = 8 * vs.length := by
  induction vs with
  | nil => rfl
  | cons v vs ih =>
    rw [bitStream, List.flatMap_cons, List.length_append, bitsMsbFirst_length, ← bitStream, ih, List.length_cons]
    omega

/-- The bits of the first byte, then those of the bytes after it. -/
theorem bitsFrom_succ (m : Memory) (a n : Nat) {j : Nat} (h : j ≤ 8) :
    bitsFrom m a (n + 1) j = (bitsMsbFirst (m.read a)).drop j ++ bitsFrom m (a + 1) n 0 := by
  rw [bitsFrom, bytesAt, bitStream, List.flatMap_cons, List.drop_append_of_le_length h]
  rfl

/-- After its last bit a byte is done. -/
theorem bitsFrom_byteDone (m : Memory) (a n : Nat) : bitsFrom m a (n + 1) 8 = bitsFrom m (a + 1) n 0 :=
  bitsFrom_succ m a n (Nat.le_refl 8)

theorem drop_bitsMsbFirst (v : Byte) {j : Nat} (h : j ≤ 7) :
    (bitsMsbFirst v).drop j = v.getLsbD (7 - j) :: (bitsMsbFirst v).drop (j + 1) := by
  interval_cases j <;> rfl

/-- The next bit to send is bit `7 - j` of the first byte (R139). -/
theorem bitsFrom_cons (m : Memory) (a n : Nat) {j : Nat} (h : j ≤ 7) :
    bitsFrom m a (n + 1) j = (m.read a).getLsbD (7 - j) :: bitsFrom m a (n + 1) (j + 1) := by
  rw [bitsFrom_succ m a n (by omega), bitsFrom_succ m a n (by omega), drop_bitsMsbFirst _ h, List.cons_append]

/-! ### The ticks still to run -/

/-- The two ticks of a data bit, each with its state and the level after it (R65, R139, R140). -/
def bitTicks (b : Bool) : List (RfState × Level) :=
  [(.BIT_PHASE1, firstHalf b), (.BIT_PHASE2, (firstHalf b).complement)]

/-- The ticks of the bits still to send, then the END tick. -/
def dataTicks (bits : List Bool) : List (RfState × Level) := bits.flatMap bitTicks ++ [(.END, .L)]

/-- The bits still to send, the one now being sent first. -/
def State.bitsLeft (s : State) : List Bool := bitsFrom s.mem (s.txBuf + s.byteIdx) (s.txLen - s.byteIdx) s.bitIdx

/-- The bits of the whole buffer. -/
def State.allBits (s : State) : List Bool := bitsFrom s.mem s.txBuf s.txLen 0

/-- The ticks a transmission has before it, each with the state it runs in and the level of RF_OUT after it (R142). -/
def State.ticksLeft (s : State) : List (RfState × Level) :=
  match s.rfState with
  | .IDLE => []
  | .START => (.START, .H) :: (List.replicate s.params.leadInTicks (.LEAD_IN, .H) ++ dataTicks s.allBits)
  | .LEAD_IN => List.replicate (s.params.leadInTicks - s.leadinCnt) (.LEAD_IN, .H) ++ dataTicks s.allBits
  | .BIT_PHASE1 => dataTicks s.bitsLeft
  | .BIT_PHASE2 => (.BIT_PHASE2, s.rfLevel.complement) :: dataTicks s.bitsLeft.tail
  | .END => [(.END, .L)]

theorem ticksLeft_eq_nil {s : State} : s.ticksLeft = [] ↔ s.rfState = .IDLE := by
  unfold State.ticksLeft
  split <;> simp [dataTicks, *]

theorem dataTicks_ends (bits : List Bool) : (dataTicks bits).getLast? = some (.END, .L) := List.getLast?_concat

/-- The last tick of a transmission is the END tick, which sets RF_OUT low (R141). -/
theorem ticksLeft_ends {s : State} (h : s.rfState ≠ .IDLE) : s.ticksLeft.getLast? = some (.END, .L) := by
  unfold State.ticksLeft
  split
  · next hrf => exact absurd hrf h
  · simp [List.getLast?_cons, List.getLast?_append, dataTicks_ends]
  · simp [List.getLast?_append, dataTicks_ends]
  · exact dataTicks_ends _
  · simp [List.getLast?_cons, dataTicks_ends]
  · rfl

/-- A tick of a transmission in flight: the handler answers, the transmission stays in order, and the tick is the first
of those that were left. -/
structure Ticks (s t : State) : Prop where
  answers : tickHandler s = .next t
  inOrder : t.RadioInv
  takesOff : s.ticksLeft = (s.rfState, t.rfLevel) :: t.ticksLeft

section
variable {s : State}

/-- The bit now being sent, and those after it. -/
theorem bitsLeft_cons (hbyte : s.byteIdx < s.txLen) (hbit : s.bitIdx ≤ 7) :
    s.bitsLeft = (s.mem.read (loadAddress s)).getLsbD (7 - s.bitIdx) ::
      bitsFrom s.mem (loadAddress s) (s.txLen - s.byteIdx) (s.bitIdx + 1) := by
  obtain ⟨n, hn⟩ : ∃ n, s.txLen - s.byteIdx = n + 1 := ⟨s.txLen - s.byteIdx - 1, by omega⟩
  rw [State.bitsLeft, hn]
  exact bitsFrom_cons _ _ _ hbit

/-- After the last bit of a byte those of the next byte follow. -/
theorem bitsLeft_tail_byteDone (hbyte : s.byteIdx < s.txLen) (hbit : s.bitIdx = 7) :
    s.bitsLeft.tail = bitsFrom s.mem (s.txBuf + (s.byteIdx + 1)) (s.txLen - (s.byteIdx + 1)) 0 := by
  obtain ⟨n, hn⟩ : ∃ n, s.txLen - s.byteIdx = n + 1 := ⟨s.txLen - s.byteIdx - 1, by omega⟩
  rw [bitsLeft_cons hbyte hbit.le, List.tail_cons, hn, hbit, bitsFrom_byteDone]
  congr 1
  omega

variable (hs : s.RadioInv) (hlead : 1 ≤ s.params.leadInTicks)
include hs hlead

theorem ticks_start (hrf : s.rfState = .START) : ∃ t, Ticks s t := by
  have h := tick_start hrf
  refine ⟨_, h, tickHandler_radioInv hlead hs h, ?_⟩
  simp only [State.ticksLeft, hrf]
  rfl

theorem ticks_leadIn (hrf : s.rfState = .LEAD_IN) : ∃ t, Ticks s t := by
  obtain ⟨-, -, hcount⟩ := hs.resolve_left (by simp [hrf])
  simp only [State.CountersOk, hrf] at hcount
  obtain ⟨hbyte, hbit, hcnt⟩ := hcount
  have h := tick_leadIn hrf
  refine ⟨_, h, tickHandler_radioInv hlead hs h, ?_⟩
  obtain ⟨n, hn⟩ := Nat.exists_eq_add_of_le hcnt
  have hleft : s.params.leadInTicks - s.leadinCnt = n + 1 := by omega
  by_cases hlast : s.leadinCnt + 1 = s.params.leadInTicks
  · obtain rfl : n = 0 := by omega
    simp only [State.ticksLeft, hrf, hleft, if_pos hlast, State.bitsLeft, hbyte, hbit]
    rfl
  · have hleft' : s.params.leadInTicks - (s.leadinCnt + 1) = n := by omega
    simp only [State.ticksLeft, hrf, hleft, if_neg hlast, hleft']
    rfl

theorem ticks_bitPhase1 (hrf : s.rfState = .BIT_PHASE1) : ∃ t, Ticks s t := by
  obtain ⟨-, hfits, hcount⟩ := hs.resolve_left (by simp [hrf])
  simp only [State.CountersOk, hrf] at hcount
  obtain ⟨hbyte, hbit, -⟩ := hcount
  have hload : loadAddress s < s.params.space := by
    have hend : s.txBuf + s.txLen ≤ s.params.space := of_decide_eq_true hfits
    simp only [loadAddress]
    omega
  have h := tick_bitPhase1 hrf hload hbit
  refine ⟨_, h, tickHandler_radioInv hlead hs h, ?_⟩
  simp only [State.ticksLeft, hrf, State.rfLevel, levelOfRf_rfDriveOf]
  change dataTicks s.bitsLeft = _ :: _ :: dataTicks s.bitsLeft.tail
  rw [bitsLeft_cons hbyte hbit]
  rfl

theorem ticks_bitPhase2 (hrf : s.rfState = .BIT_PHASE2) : ∃ t, Ticks s t := by
  obtain ⟨-, -, hcount⟩ := hs.resolve_left (by simp [hrf])
  simp only [State.CountersOk, hrf] at hcount
  obtain ⟨hbyte, hbit, -⟩ := hcount
  by_cases hdone : s.bitIdx = 7
  · have h := tick_bitPhase2_byteDone hrf hdone
    refine ⟨_, h, tickHandler_radioInv hlead hs h, ?_⟩
    simp only [State.ticksLeft, hrf, State.rfLevel, levelOfRf_rfDriveOf, bitsLeft_tail_byteDone hbyte hdone]
    by_cases hend : s.byteIdx + 1 = s.txLen
    · simp only [hend, Nat.sub_self, bitsFrom_zero]
      rfl
    · simp only [if_neg hend]
      rfl
  · have h := tick_bitPhase2 hrf hdone
    refine ⟨_, h, tickHandler_radioInv hlead hs h, ?_⟩
    simp only [State.ticksLeft, hrf, State.rfLevel, levelOfRf_rfDriveOf, if_neg hbyte.ne, bitsLeft_cons hbyte hbit]
    rfl

theorem ticks_end (hrf : s.rfState = .END) : ∃ t, Ticks s t := by
  have h := tick_end hrf
  refine ⟨_, h, tickHandler_radioInv hlead hs h, ?_⟩
  simp only [State.ticksLeft, hrf]
  rfl

/-- In flight each tick rule takes its own tick off the list (R137 to R141). -/
theorem exists_ticks (hrf : s.rfState ≠ .IDLE) : ∃ t, Ticks s t := by
  cases hst : s.rfState with
  | IDLE => exact absurd hst hrf
  | START => exact ticks_start hs hlead hst
  | LEAD_IN => exact ticks_leadIn hs hlead hst
  | BIT_PHASE1 => exact ticks_bitPhase1 hs hlead hst
  | BIT_PHASE2 => exact ticks_bitPhase2 hs hlead hst
  | END => exact ticks_end hs hlead hst

end

theorem drvRF_of_low {s : State} (h : s.rfLevel = .L) : s.drvRF = .D0 := by
  cases hd : s.drvRF with
  | Z => simp [State.rfLevel, levelOfRf, hd] at h
  | D0 => rfl

/-- The tick that ends a transmission leaves RF_OUT low (R141). -/
theorem Ticks.ends_low {s t : State} (h : Ticks s t) (hidle : t.rfState = .IDLE) : t.drvRF = .D0 := by
  have hleft := h.takesOff
  rw [ticksLeft_eq_nil.2 hidle] at hleft
  have hbusy : s.rfState ≠ .IDLE := fun hrf => by simp [ticksLeft_eq_nil.2 hrf] at hleft
  have hlast := ticksLeft_ends hbusy
  rw [hleft] at hlast
  exact drvRF_of_low (congrArg Prod.snd (Option.some.inj hlast))

theorem Ticks.params {s t : State} (h : Ticks s t) : t.params = s.params := by
  rw [tickHandler_frame h.answers]

/-! ### The ticks of one transmission -/

/-- The ticks left run one after another, each in its state and with its level, and leave the radio idle and RF_OUT
low. -/
theorem ticksLeft_run {n : Nat} {s : State} (hs : s.RadioInv) (hlead : 1 ≤ s.params.leadInTicks)
    (hn : s.ticksLeft.length = n) (hlow : s.rfState = .IDLE → s.drvRF = .D0) :
    waveform n s = s.ticksLeft.map Prod.snd ∧
      observe tickHandler (fun t => [t.rfState]) n s = s.ticksLeft.map Prod.fst ∧
      ∃ t, ticksFor n s = .next t ∧ t.rfState = .IDLE ∧ t.drvRF = .D0 := by
  induction n generalizing s with
  | zero =>
    have hnil := List.length_eq_zero_iff.1 hn
    have hidle := ticksLeft_eq_nil.1 hnil
    rw [hnil]
    exact ⟨rfl, rfl, s, rfl, hidle, hlow hidle⟩
  | succ n ih =>
    have hbusy : s.rfState ≠ .IDLE := fun hrf => by simp [ticksLeft_eq_nil.2 hrf] at hn
    obtain ⟨t, ht⟩ := exists_ticks hs hlead hbusy
    rw [ht.takesOff] at hn ⊢
    obtain ⟨hwave, hstates, u, hu, hend⟩ :=
      ih ht.inOrder (by rwa [ht.params]) (Nat.succ.inj hn) ht.ends_low
    refine ⟨?_, ?_, u, ?_, hend⟩
    · simp only [waveform, ht.answers, hwave, List.map_cons]
    · rw [observe_succ_next ht.answers, hstates]
      rfl
    · rw [ticksFor, iterate_succ, ht.answers]
      exact hu

/-! ### The whole frame -/

theorem allBits_eq (s : State) : s.allBits = bitStream (bytesAt s.mem s.txBuf s.txLen) := rfl

theorem allBits_length (s : State) : s.allBits.length = 8 * s.txLen := by
  rw [allBits_eq, bitStream_length, bytesAt_length]

theorem dataTicks_levels (bits : List Bool) :
    (dataTicks bits).map Prod.snd = bits.flatMap manchester ++ [.L] := by
  rw [dataTicks, List.map_append, List.map_flatMap]
  rfl

theorem dataTicks_states (bits : List Bool) : (dataTicks bits).map Prod.fst =
    (List.replicate bits.length [RfState.BIT_PHASE1, .BIT_PHASE2]).flatten ++ [.END] := by
  rw [dataTicks, List.map_append, List.map_flatMap, ← List.map_const', ← List.flatMap_def]
  rfl

theorem dataTicks_length (bits : List Bool) : (dataTicks bits).length = 2 * bits.length + 1 := by
  induction bits with
  | nil => rfl
  | cons b bits ih =>
    change (dataTicks bits).length + 2 = 2 * (bits.length + 1) + 1
    omega

section
variable {s : State} (hrf : s.rfState = .START)
include hrf

/-- At arming `N + 16 * len + 2` ticks are left (R142). -/
theorem ticksLeft_length : s.ticksLeft.length = s.params.leadInTicks + 16 * s.txLen + 2 := by
  simp only [State.ticksLeft, hrf, List.length_cons, List.length_append, List.length_replicate, dataTicks_length,
    allBits_length]
  omega

theorem ticksLeft_levels :
    s.ticksLeft.map Prod.snd = frameOf s.params.leadInTicks (bytesAt s.mem s.txBuf s.txLen) := by
  simp only [State.ticksLeft, hrf, List.map_cons, List.map_append, List.map_replicate, dataTicks_levels, allBits_eq,
    frameOf, List.replicate_succ, List.cons_append, List.append_assoc]

theorem ticksLeft_states : s.ticksLeft.map Prod.fst =
    .START :: (List.replicate s.params.leadInTicks .LEAD_IN ++
      (List.replicate (8 * s.txLen) [RfState.BIT_PHASE1, .BIT_PHASE2]).flatten ++ [.END]) := by
  simp only [State.ticksLeft, hrf, List.map_cons, List.map_append, List.map_replicate, dataTicks_states, allBits_length,
    List.append_assoc]

/-- A transmission armed for a non-empty buffer inside the address space is in order (R133). -/
theorem radioInv_armed (hlen : 1 ≤ s.txLen) (hfits : s.txBuf + s.txLen ≤ 2 ^ s.params.addrBits) : s.RadioInv :=
  .inr ⟨hlen, decide_eq_true hfits, by simp [State.CountersOk, hrf]⟩

end

/-- Settles O39: the ticks left at arming are those of the frame, and they run. -/
theorem transmissionFollowsTheFrameLaw : Obligations.TransmissionFollowsTheFrameLaw := by
  intro s hrf hlead hlen hfits
  rw [← ticksLeft_length hrf, ← ticksLeft_levels hrf, ← ticksLeft_states hrf]
  exact ticksLeft_run (radioInv_armed hrf hlen hfits) hlead rfl (by simp [hrf])

end Sys2Proof.Machine
end

section
/-! SUPPORT. The foreground's side of the radio: the three operations, what a step of each may write, and the table of
`rf_state` (rules R131, R133, R134, R144). -/

namespace Sys2Proof.Machine

/-! ### RF_INIT and RF_TRANSMIT_PACKET -/

/-- Settles O32: the issue, then its three micro-steps one by one. -/
theorem rfInitSetsTheTransmitterUp : Obligations.RfInitSetsTheTransmitterUp := by
  intro s hpc
  refine ⟨exec_ready hpc, ?_, ?_, (rfInit_runs s).issue_completes hpc hpc⟩
  · rw [execFor_issue hpc]
    rfl
  · rw [execFor_issue hpc]
    rfl

/-- Settles O35: its issue is the refusal. -/
theorem rfTransmitPacketIsRefused : Obligations.RfTransmitPacketIsRefused := fun _ hpc => exec_ready hpc

/-! ### RF_TRANSMIT_BUFFER -/

section
variable {s : State}

theorem acceptTransmit_fits (hlen : 1 ≤ s.argLen) (hfit : s.argPtr + s.argLen ≤ 2 ^ s.params.addrBits) :
    s.acceptTransmit = s.goto .rfTransmitBuffer 0 := by
  have hfits : s.bufferFits = true := decide_eq_true hfit
  rw [State.acceptTransmit, if_neg (by omega), if_pos hfits]
  rfl

theorem acceptTransmit_refuses (h : s.argLen = 0 ∨ 2 ^ s.params.addrBits < s.argPtr + s.argLen) :
    s.acceptTransmit = s.refuse := by
  unfold State.acceptTransmit
  split
  · rfl
  · next hlen =>
    have hpast : s.bufferFits = false := decide_eq_false (not_le.2 (h.resolve_left hlen))
    rw [hpast]
    rfl

/-- At its wait the operation tests the radio and stays or completes (R133). -/
theorem exec_wait (hpc : s.fgPc = .running .rfTransmitBuffer 4) :
    exec .rfTransmitBuffer s = .next (if s.busy then s else s.complete statusOk) :=
  exec_running (i := .rfTransmitBuffer) hpc rfl

theorem exec_wait_busy (hpc : s.fgPc = .running .rfTransmitBuffer 4) (hrf : s.rfState ≠ .IDLE) :
    exec .rfTransmitBuffer s = .next s := by
  rw [exec_wait hpc, if_pos ((busy_iff s).2 hrf)]

theorem exec_wait_idle (hpc : s.fgPc = .running .rfTransmitBuffer 4) (hrf : s.rfState = .IDLE) :
    exec .rfTransmitBuffer s = .next (s.complete statusOk) := by
  rw [exec_wait hpc, if_neg (by simp [busy_iff, hrf])]

/-- One more micro-step before the wait, with the radio idle at m0 (R133). -/
theorem execFor_transmit {n k : Nat} {a : Action} {u v t : State} (h : execFor .rfTransmitBuffer n s = .next v)
    (hpc : v.fgPc = .running .rfTransmitBuffer k) (ha : (programOf .rfTransmitBuffer)[k]? = some a)
    (hu : a.run v = .next u) (hk : k < 4) (hidle : k = 0 → u.rfState = .IDLE)
    (ht : u.goto .rfTransmitBuffer (k + 1) = t) : execFor .rfTransmitBuffer (n + 1) s = .next t := by
  have hexec : exec .rfTransmitBuffer v = .next (following .rfTransmitBuffer k u) := by
    rw [exec_running (i := .rfTransmitBuffer) hpc ha, hu]
    rfl
  rw [execFor, iterate_trans h, iterate_succ, hexec, following_transmit hk hidle, ht]
  rfl

end

/-- Settles O33: the issue and the four micro-steps before the wait one after another, then the two branches of the
wait. -/
theorem rfTransmitBufferArmsAndWaits : Obligations.RfTransmitBufferArmsAndWaits := by
  refine ⟨fun s hpc hlen hfit hidle => ?_, fun s hpc => ⟨exec_wait_busy hpc, exec_wait_idle hpc⟩⟩
  have hissue : exec .rfTransmitBuffer s = .next (s.goto .rfTransmitBuffer 0) :=
    (exec_ready hpc).trans (congrArg _ (acceptTransmit_fits hlen hfit))
  have h1 : execFor .rfTransmitBuffer 1 s = .next (s.goto .rfTransmitBuffer 0) := by
    rw [execFor, iterate_succ, hissue]
    rfl
  have h2 := execFor_transmit h1 rfl rfl rfl (by decide) (fun _ => hidle) rfl
  have h3 : execFor .rfTransmitBuffer 3 s =
      .next { s with txBuf := s.argPtr, fgPc := .running .rfTransmitBuffer 2 } :=
    execFor_transmit h2 rfl rfl rfl (by decide) nofun rfl
  have h4 : execFor .rfTransmitBuffer 4 s =
      .next { s with txBuf := s.argPtr, txLen := s.argLen, fgPc := .running .rfTransmitBuffer 3 } :=
    execFor_transmit h3 rfl rfl rfl (by decide) nofun rfl
  exact ⟨hissue, h3, h4, execFor_transmit h4 rfl rfl rfl (by decide) nofun rfl⟩

/-- Settles O34: the two checks at issue, and the test of m0. -/
theorem rfTransmitBufferTurnedAway : Obligations.RfTransmitBufferTurnedAway := by
  refine ⟨fun s hpc hbad => ?_, fun s hpc hrf => ?_⟩
  · rw [exec_ready hpc, issued, acceptTransmit_refuses hbad]
    rfl
  · have hm0 : exec .rfTransmitBuffer s =
        .next (if s.busy then s.complete statusBusy else s.goto .rfTransmitBuffer 1) :=
      exec_running (i := .rfTransmitBuffer) hpc rfl
    rw [hm0, if_pos ((busy_iff s).2 hrf)]
    rfl

/-! ### Frames -/

section
variable {s t : State}

theorem rfInitAction_frame {k : Nat} {a : Action} {u : State} (ha : (programOf .rfInit)[k]? = some a)
    (hu : a.run s = .next u) : u = { s with drvRF := u.drvRF, rfState := u.rfState, timerOn := u.timerOn } := by
  have hmem := List.mem_of_getElem? ha
  simp only [programOf, rfInitProgram, List.mem_cons, List.not_mem_nil, or_false] at hmem
  rcases hmem with rfl | rfl | rfl
  all_goals
    cases hu
    rfl

theorem rfTransmitBufferAction_frame {k : Nat} {a : Action} {u : State}
    (ha : (programOf .rfTransmitBuffer)[k]? = some a) (hu : a.run s = .next u) :
    u = { s with txBuf := u.txBuf, txLen := u.txLen, rfState := u.rfState } := by
  have hmem := List.mem_of_getElem? ha
  simp only [programOf, rfTransmitBufferProgram, List.mem_cons, List.not_mem_nil, or_false] at hmem
  rcases hmem with rfl | rfl | rfl | rfl | rfl
  all_goals
    cases hu
    rfl

theorem rfInit_frame (h : exec .rfInit s = .next t) :
    t = { s with
      drvRF := t.drvRF
      rfState := t.rfState
      timerOn := t.timerOn
      resStatus := t.resStatus
      fgPc := t.fgPc } := by
  rcases exec_next h with ⟨-, rfl⟩ | ⟨k, a, u, -, ha, hu, rfl⟩
  · rfl
  · have hfollow : following (opOf .rfInit) k u = _ := straight_frame .rfInit rfInitProgram k u
    generalize following (opOf .rfInit) k u = t at hfollow
    rw [hfollow, rfInitAction_frame ha hu]

theorem rfTransmitBuffer_frame (h : exec .rfTransmitBuffer s = .next t) :
    t = { s with
      txBuf := t.txBuf
      txLen := t.txLen
      rfState := t.rfState
      resStatus := t.resStatus
      fgPc := t.fgPc } := by
  rcases exec_next h with ⟨-, rfl⟩ | ⟨k, a, u, -, ha, hu, rfl⟩
  · rw [issued, State.acceptTransmit]
    split
    · rfl
    · split <;> rfl
  · have hfollow : following (opOf .rfTransmitBuffer) k u = _ := rfTransmitBufferAfter_frame k u
    generalize following (opOf .rfTransmitBuffer) k u = t at hfollow
    rw [hfollow, rfTransmitBufferAction_frame ha hu]

/-- `RF_TRANSMIT_PACKET` has no micro-step: its one answer is the refusal (R134). -/
theorem rfTransmitPacket_frame (h : exec .rfTransmitPacket s = .next t) : t = { s with resStatus := t.resStatus } := by
  rcases exec_next h with ⟨-, rfl⟩ | ⟨k, a, u, -, ha, -, -⟩
  · rfl
  · cases ha

end

/-- Settles O49: what the issue writes, and what a micro-step's action and the part that follows it write. -/
theorem radioOperationFrame : Obligations.RadioOperationFrame := by
  intro i s t h
  refine ⟨?_, ?_, ?_⟩
  · rintro rfl
    exact rfInit_frame h
  · rintro rfl
    exact rfTransmitBuffer_frame h
  · rintro rfl
    exact rfTransmitPacket_frame h

end Sys2Proof.Machine
end

section
/-! SUPPORT. The table of `rf_state`: which moves change it, and how (rule R144). -/

namespace Sys2Proof.Machine

@[simp] theorem choose_rfState (s : State) : s.choose.2.rfState = s.rfState := by rw [choose_frame]
@[simp] theorem choose_params (s : State) : s.choose.2.params = s.params := by rw [choose_frame]

/-- The tick rows of the table, from the state before the tick to the one after it (R144). -/
def TickRow (s t : State) : Prop :=
  (s.rfState = .START ∧ t.rfState = .LEAD_IN) ∨
    (s.rfState = .LEAD_IN ∧ t.rfState = .BIT_PHASE1 ∧ t.leadinCnt = s.params.leadInTicks) ∨
    (s.rfState = .BIT_PHASE1 ∧ t.rfState = .BIT_PHASE2) ∨
    (s.rfState = .BIT_PHASE2 ∧ t.rfState = .BIT_PHASE1 ∧ t.byteIdx ≠ t.txLen) ∨
    (s.rfState = .BIT_PHASE2 ∧ t.rfState = .END ∧ t.byteIdx = t.txLen) ∨
    (s.rfState = .END ∧ t.rfState = .IDLE)

section
variable {s t : State}

theorem tick_bitPhase1_next (hrf : s.rfState = .BIT_PHASE1) (h : tickHandler s = .next t) :
    t.rfState = .BIT_PHASE2 := by
  simp only [tickHandler, hrf, tickBitPhase1] at h
  split at h
  · cases h
  · split at h
    · cases h
    · cases h
      rfl

/-- The second half-symbol goes on to the END tick exactly after the last bit of the last byte (R140). -/
theorem tick_bitPhase2_next (hrf : s.rfState = .BIT_PHASE2) (h : tickHandler s = .next t) :
    t.rfState = if t.byteIdx = t.txLen then .END else .BIT_PHASE1 := by
  by_cases hbit : s.bitIdx = 7
  · rw [tick_bitPhase2_byteDone hrf hbit] at h
    cases h
    rfl
  · rw [tick_bitPhase2 hrf hbit] at h
    cases h
    rfl

/-- A tick that changes the state follows a row of the table. -/
theorem tickHandler_row (h : tickHandler s = .next t) (hne : t.rfState ≠ s.rfState) : TickRow s t := by
  unfold TickRow
  cases hrf : s.rfState with
  | IDLE => exact absurd (congrArg _ (tickHandler_idle hrf h)) hne
  | START =>
    rw [tick_start hrf] at h
    cases h
    simp
  | LEAD_IN =>
    rw [tick_leadIn hrf] at h
    cases h
    by_cases hlast : s.leadinCnt + 1 = s.params.leadInTicks
    · simp [hlast]
    · simp [hrf, hlast] at hne
  | BIT_PHASE1 => simp [tick_bitPhase1_next hrf h]
  | BIT_PHASE2 =>
    have hnext := tick_bitPhase2_next hrf h
    by_cases hend : t.byteIdx = t.txLen
    · simp [hnext, hend]
    · simp [hnext, hend]
  | END =>
    rw [tick_end hrf] at h
    cases h
    simp

/-- Only two micro-steps and the ticks change `rf_state` (R144). -/
theorem moves_rfState {a : Agent} (h : Moves a s t) (hne : t.rfState ≠ s.rfState) :
    (a = .fg ∧ (s.fgPc = .running .rfInit 1 ∧ t.rfState = .IDLE ∨
      s.fgPc = .running .rfTransmitBuffer 3 ∧ t.rfState = .START)) ∨
      (a = .tick ∧ s.tickPossible = true ∧ TickRow s t) := by
  cases h with
  | issue i => exact absurd (by rw [issued_frame]) hne
  | micro hpc ha hu =>
    rw [following_rfState] at hne ⊢
    have hwrite := (action_writes hu).rfState.resolve_left hne
    rw [hwrite] at ha
    rcases rfWrite_at ha with ⟨rfl, rfl, hv⟩ | ⟨rfl, rfl, hv⟩
    · exact .inl ⟨rfl, .inl ⟨hpc, hv⟩⟩
    · exact .inl ⟨rfl, .inr ⟨hpc, hv⟩⟩
  | tick hp ht => exact .inr ⟨rfl, hp, tickHandler_row ht hne⟩
  | _ => exact absurd rfl hne

end

/-- Settles O45: a step that changes `rf_state` is one of the moves of the table; in the invariant's states only the wait
of `RF_TRANSMIT_BUFFER` is in flight, so arming finds IDLE. -/
theorem radioStateMovesByTheTable : Obligations.RadioStateMovesByTheTable := by
  intro s t h hne
  rcases step_moves h with rfl | ⟨a, ha, hm⟩
  · exact absurd (choose_rfState s) hne
  have hmove := moves_rfState hm (by rwa [choose_rfState])
  simp only [choose_fgPc, TickRow, choose_rfState, choose_params, State.tickPossible, choose_timerOn, choose_gie,
    Bool.and_eq_true] at hmove
  rcases hmove with ⟨rfl, hinit | ⟨hpc, hstart⟩⟩ | ⟨rfl, ⟨htimer, hgie⟩, hrow⟩
  · exact .inl ⟨ha, .inl hinit⟩
  · refine .inl ⟨ha, .inr ⟨hpc, hstart, fun ⟨_, _, hport, _⟩ => hport.resolve_right ?_⟩⟩
    simp [hpc]
  · exact .inr ⟨ha, htimer, hgie, hrow⟩

end Sys2Proof.Machine
end

section
/-! SUPPORT. The wait of `RF_TRANSMIT_BUFFER` while ticks run: it ends with the last tick that is left, and not before
(rules R133, R142, R145, R165). -/

namespace Sys2Proof.Machine

/-! ### One turn of the wait -/

theorem step_turn {s : State} {a : Agent} {later : List Agent} (h : s.turns = a :: later) :
    step s = agentStep a { s with turns := later } := by
  unfold step
  rw [choose_turn h]
  rfl

/-- The foreground is in the wait of `RF_TRANSMIT_BUFFER`, with a transmission in order or none in flight. -/
structure Waiting (s : State) : Prop where
  pc : s.fgPc = .running .rfTransmitBuffer 4
  inOrder : s.RadioInv
  leadIn : 1 ≤ s.params.leadInTicks

/-- `t` is `s` some ticks on: only the elements a tick writes and the list of turns may differ (R167 point 3). -/
def Flown (s t : State) : Prop :=
  t = { s with
    rfState := t.rfState
    byteIdx := t.byteIdx
    bitIdx := t.bitIdx
    leadinCnt := t.leadinCnt
    drvRF := t.drvRF
    turns := t.turns }

/-- What a turn of the wait leads to while a transmission is in flight; `k` is the number of ticks it runs. -/
structure WaitTurn (k : Nat) (later : List Agent) (s t : State) : Prop where
  answers : step s = .next t
  waits : Waiting t
  turns : t.turns = later
  flown : Flown s t
  left : s.ticksLeft.length = t.ticksLeft.length + k
  low : t.rfState = .IDLE → t.drvRF = .D0

section
variable {s : State} {a : Agent} {later ts rest : List Agent}

/-- A turn that runs no tick leaves everything but the list of turns. -/
theorem Waiting.turn_rests (hs : Waiting s) (hrf : s.rfState ≠ .IDLE)
    (hstep : step s = .next { s with turns := later }) : WaitTurn 0 later s { s with turns := later } :=
  ⟨hstep, ⟨hs.pc, hs.inOrder, hs.leadIn⟩, rfl, rfl, rfl, fun h => absurd h hrf⟩

/-- A turn of the wait runs a tick where it is the tick's and a tick is possible, and nothing else. -/
theorem Waiting.exists_turn (hs : Waiting s) (hrf : s.rfState ≠ .IDLE) (ha : a = .fg ∨ a = .tick)
    (hturns : s.turns = a :: later) :
    ∃ t, WaitTurn (if s.tickPossible = true then [a].count .tick else 0) later s t := by
  rcases ha with rfl | rfl
  · have hnone : [Agent.fg].count .tick = 0 := rfl
    rw [hnone, ite_self]
    refine ⟨_, hs.turn_rests hrf ?_⟩
    have hpc : ({ s with turns := later } : State).fgPc = .running .rfTransmitBuffer 4 := hs.pc
    rw [step_turn hturns]
    exact (fgStep_running hpc).trans (exec_wait_busy hpc hrf)
  · have hstep : step s = tickStep { s with turns := later } := step_turn hturns
    rw [tickStep_eq] at hstep
    by_cases hp : s.tickPossible = true
    · obtain ⟨t, ht⟩ := exists_ticks (s := { s with turns := later }) hs.inOrder hs.leadIn hrf
      have hframe := tickHandler_frame ht.answers
      have hleft : s.ticksLeft = _ := ht.takesOff
      refine ⟨t, (hstep.trans (if_pos hp)).trans ht.answers, ⟨?_, ht.inOrder, ?_⟩, ?_, ?_, ?_, ht.ends_low⟩
      · rw [hframe]
        exact hs.pc
      · rw [hframe]
        exact hs.leadIn
      · rw [hframe]
      · rw [Flown, hframe]
      · rw [hleft, if_pos hp]
        rfl
    · rw [if_neg hp]
      exact ⟨_, hs.turn_rests hrf (hstep.trans (if_neg hp))⟩

theorem stepsFor_cons {n : Nat} {t : State} (h : step s = .next t) : stepsFor (n + 1) s = stepsFor n t := by
  rw [stepsFor, iterate_succ, h]
  rfl

theorem ticksLeft_length_pos : 0 < s.ticksLeft.length ↔ s.rfState ≠ .IDLE := by
  rw [List.length_pos_iff, ne_eq, ticksLeft_eq_nil]

/-- While ticks are left the operation waits (R133, R145). -/
theorem Waiting.goes_on (hs : Waiting s) (hts : ∀ a ∈ ts, a = .fg ∨ a = .tick)
    (hcount : ts.count .tick < s.ticksLeft.length) (hturns : s.turns = ts ++ rest) :
    ∃ t, stepsFor ts.length s = .next t ∧ t.fgPc = .running .rfTransmitBuffer 4 ∧ t.rfState ≠ .IDLE ∧
      t.turns = rest := by
  have hrf := ticksLeft_length_pos.1 (Nat.zero_lt_of_lt hcount)
  induction ts generalizing s with
  | nil => exact ⟨s, rfl, hs.pc, hrf, hturns⟩
  | cons a ts ih =>
    obtain ⟨t, ht⟩ := hs.exists_turn hrf (hts a List.mem_cons_self) hturns
    have hcount' : ts.count .tick < t.ticksLeft.length := by
      have hleft := ht.left
      rw [← List.singleton_append, List.count_append] at hcount
      split at hleft <;> omega
    rw [List.length_cons, stepsFor_cons ht.answers]
    exact ih ht.waits (fun b hb => hts b (List.mem_cons_of_mem a hb)) hcount' ht.turns
      (ticksLeft_length_pos.1 (Nat.zero_lt_of_lt hcount'))

end

/-- Settles O37: at arming all the ticks of the frame are left. -/
theorem transmissionWaitsForItsTicks : Obligations.TransmissionWaitsForItsTicks := by
  intro s ts rest hpc hrf hlead hlen hfits hts hcount hturns
  have hs : Waiting s := ⟨hpc, radioInv_armed hrf hlen hfits, hlead⟩
  exact hs.goes_on hts (by rwa [ticksLeft_length hrf]) hturns

/-! ### The end of the wait -/

section
variable {s t : State} {ts rest : List Agent}

/-- At `READY` turns of the foreground do nothing. -/
theorem stepsFor_ready {n : Nat} (hpc : s.fgPc = .ready) (hturns : s.turns = List.replicate n .fg ++ rest) :
    stepsFor n s = .next { s with turns := rest } := by
  induction n generalizing s with
  | zero =>
    rw [← show s.turns = rest from hturns]
    rfl
  | succ n ih =>
    have hstep : step s = .next { s with turns := List.replicate n .fg ++ rest } :=
      (step_turn hturns).trans (fgStep_ready hpc)
    rw [stepsFor_cons hstep]
    exact ih hpc rfl

/-- With the radio idle the next turn of the foreground completes the operation, and more of them do nothing (R133). -/
theorem stepsFor_wait_idle {n : Nat} (hpc : s.fgPc = .running .rfTransmitBuffer 4) (hrf : s.rfState = .IDLE)
    (hturns : s.turns = List.replicate (n + 1) .fg ++ rest) :
    stepsFor (n + 1) s = .next { s with fgPc := .ready, resStatus := statusOk, turns := rest } := by
  have hpc' : ({ s with turns := List.replicate n .fg ++ rest } : State).fgPc = .running .rfTransmitBuffer 4 := hpc
  have hstep : step s = .next (State.complete { s with turns := List.replicate n .fg ++ rest } statusOk) :=
    (step_turn hturns).trans ((fgStep_running hpc').trans (exec_wait_idle hpc' hrf))
  rw [stepsFor_cons hstep]
  exact stepsFor_ready rfl rfl

theorem eq_replicate_fg (hts : ∀ a ∈ ts, a = .fg ∨ a = .tick) (hcount : ts.count .tick = 0) :
    ts = List.replicate ts.length .fg :=
  List.eq_replicate_of_mem fun a ha => (hts a ha).resolve_right fun h => List.count_eq_zero.1 hcount (h ▸ ha)

/-- `t` is `s` with the transmission over and the operation complete. -/
def Transmitted (rest : List Agent) (s t : State) : Prop :=
  t = { s with
    fgPc := .ready
    resStatus := statusOk
    rfState := .IDLE
    drvRF := .D0
    byteIdx := t.byteIdx
    bitIdx := t.bitIdx
    leadinCnt := t.leadinCnt
    turns := rest }

theorem Transmitted.of_flown {u : State} (h : Transmitted rest u t) (hu : Flown s u) : Transmitted rest s t := by
  rw [Flown] at hu
  rw [Transmitted, hu] at h
  exact h

/-- With no tick left the turns are the foreground's, and the first completes the operation. -/
theorem Waiting.completes_idle (hs : Waiting s) (hrf : s.rfState = .IDLE) (hlow : s.rfState = .IDLE → s.drvRF = .D0)
    (hts : ∀ a ∈ ts, a = .fg ∨ a = .tick) (hcount : ts.count .tick = s.ticksLeft.length)
    (hturns : s.turns = ts ++ .fg :: rest) :
    ∃ t, stepsFor (ts.length + 1) s = .next t ∧ Transmitted rest s t := by
  rw [ticksLeft_eq_nil.2 hrf] at hcount
  rw [eq_replicate_fg hts hcount, ← List.singleton_append, ← List.append_assoc, ← List.replicate_succ'] at hturns
  refine ⟨_, stepsFor_wait_idle hs.pc hrf hturns, ?_⟩
  rw [Transmitted, ← hrf, ← hlow hrf]

/-- When the ticks left have run, the turn of the foreground after them completes the operation (R133, R142). -/
theorem Waiting.completes (hs : Waiting s) (hp : s.tickPossible = true) (hlow : s.rfState = .IDLE → s.drvRF = .D0)
    (hts : ∀ a ∈ ts, a = .fg ∨ a = .tick) (hcount : ts.count .tick = s.ticksLeft.length)
    (hturns : s.turns = ts ++ .fg :: rest) :
    ∃ t, stepsFor (ts.length + 1) s = .next t ∧ Transmitted rest s t := by
  induction ts generalizing s with
  | nil =>
    have hrf := ticksLeft_eq_nil.1 (List.length_eq_zero_iff.1 hcount.symm)
    exact hs.completes_idle hrf hlow hts hcount hturns
  | cons a ts ih =>
    by_cases hrf : s.rfState = .IDLE
    · exact hs.completes_idle hrf hlow hts hcount hturns
    obtain ⟨t, ht⟩ := hs.exists_turn hrf (hts a List.mem_cons_self) hturns
    have hpt : t.tickPossible = true := by
      rw [ht.flown]
      exact hp
    have hcount' : ts.count .tick = t.ticksLeft.length := by
      have hleft := ht.left
      rw [← List.singleton_append, List.count_append] at hcount
      rw [if_pos hp] at hleft
      omega
    obtain ⟨u, hu, hend⟩ :=
      ih ht.waits hpt ht.low (fun b hb => hts b (List.mem_cons_of_mem a hb)) hcount' ht.turns
    exact ⟨u, (stepsFor_cons ht.answers).trans hu, hend.of_flown ht.flown⟩

end

/-- Settles O36: at arming all the ticks of the frame are left, and the turns run them. -/
theorem transmissionCompletesAfterItsTicks : Obligations.TransmissionCompletesAfterItsTicks := by
  intro s ts rest hpc hrf htimer hgie hlead hlen hfits hts hcount hturns
  have hs : Waiting s := ⟨hpc, radioInv_armed hrf hlen hfits, hlead⟩
  have hp : s.tickPossible = true := by simp [State.tickPossible, htimer, hgie]
  exact hs.completes hp (by simp [hrf]) hts (by rw [ticksLeft_length hrf, hcount]) hturns

end Sys2Proof.Machine
end

section
/-! SUPPORT. No step of a state that meets the invariant stops (rule R160). -/

namespace Sys2Proof.Machine

/-! ### Every agent's step answers -/

/-- An action stops only where `i` names no bit of `sh`, or where a store passes the top of memory (R41, R90). -/
theorem action_answers {a : Action} {s : State} (hbit : a = .sda .shiftBit → s.i.toNat < 8)
    (hfits : a = .storeByte → storeAddress s < s.params.space) : ∃ u, a.run s = .next u := by
  cases a with
  | sda b =>
    cases b with
    | shiftBit =>
      have hsource : sourceBit .shiftBit s = some (s.sh.getLsbD s.i.toNat) := if_pos (hbit rfl)
      simp only [Action.run, hsource]
      exact ⟨_, rfl⟩
    | one => exact ⟨_, rfl⟩
    | ackBit => exact ⟨_, rfl⟩
  | storeByte => exact ⟨_, if_pos (decide_eq_true (hfits rfl))⟩
  | _ => exact ⟨_, rfl⟩

theorem shiftBit_at {op : Op} {k : Nat} (h : (programOf op)[k]? = some (.sda .shiftBit)) :
    op = .busWriteByte ∧ k = 1 :=
  microStep_forall (P := fun op k a => a = .sda .shiftBit → op = .busWriteByte ∧ k = 1)
    (by intro op; cases op <;> decide) h rfl

/-- A byte inside the byte loop of `BUS_READ_BUFFER` is stored below the top: the operands were checked at issue (R41). -/
theorem storeAddress_lt {s : State} (hops : s.operandsOk) (hbyte : s.k < s.argLen) :
    storeAddress s < s.params.space := by
  obtain ⟨-, hfits⟩ := hops
  have hend : s.argPtr + s.argLen ≤ s.params.space := of_decide_eq_true hfits
  unfold storeAddress
  omega

/-- At a micro-step whose conditions hold the action answers. -/
theorem micro_answers {s : State} {op : Op} {k : Nat} {a : Action} (hat : FgAt s op k)
    (ha : (programOf op)[k]? = some a) : ∃ u, a.run s = .next u := by
  refine action_answers ?_ ?_
  · rintro rfl
    obtain ⟨rfl, rfl⟩ := shiftBit_at ha
    obtain ⟨-, hi⟩ := (fgAt_busWriteByte _ _).1 hat
    have := hi (by omega)
    omega
  · intro hstore
    obtain ⟨rfl, rfl⟩ := (storeByte_at ha).1 hstore
    obtain ⟨-, hops, -, hbyte, -⟩ := (fgAt_busReadBuffer _ _).1 hat
    exact storeAddress_lt hops (hbyte (by omega))

theorem exec_answers {i : Instr} {s : State} {k : Nat} (hpc : s.fgPc = .running (opOf i) k) (hat : FgAt s (opOf i) k) :
    ∃ t, exec i s = .next t := by
  obtain ⟨hk, -⟩ := id hat
  have ha := List.getElem?_eq_getElem hk
  obtain ⟨u, hu⟩ := micro_answers hat ha
  rw [exec_running hpc ha, hu]
  exact ⟨_, rfl⟩

theorem fgStep_answers {s : State} (hs : s.FgInv) : ∃ t, fgStep s = .next t := by
  cases hpc : s.fgPc with
  | ready => exact ⟨s, fgStep_ready hpc⟩
  | running op k =>
    have hat := (fgInv_running hpc).1 hs
    rw [fgStep_running hpc]
    exact exec_answers (k := k) (by rwa [opOf_instrOf]) (by rwa [opOf_instrOf])

/-- The block answers every word at `READY`: it issues a legal one and refuses an illegal one (R71, R76). -/
theorem issueWord_answers {s : State} (w : CommandWord) (hpc : s.fgPc = .ready) : ∃ t, issueWord w s = .next t := by
  cases hw : decode w with
  | ok i => exact ⟨_, (issueWord_legal hw s).trans (exec_ready hpc)⟩
  | error why => exact ⟨_, issueWord_illegal hw s⟩

theorem hostStep_answers (s : State) : ∃ t, hostStep s = .next t := by
  cases hq : s.hostQ with
  | nil => exact ⟨s, by simp only [hostStep, hq]⟩
  | cons a acts =>
    by_cases hacts : a.waits = true → s.fgPc = .ready
    · rw [hostStep_acts hq hacts]
      cases a with
      | issue w => exact issueWord_answers w (hacts rfl)
      | _ => exact ⟨_, rfl⟩
    · obtain ⟨hw, hpc⟩ := Classical.not_imp.1 hacts
      exact ⟨s, hostStep_waits hq hw hpc⟩

theorem tickHandler_answers {s : State} (hs : s.Inv) : ∃ t, tickHandler s = .next t := by
  obtain ⟨hdata, -, -, hradio⟩ := hs
  by_cases hrf : s.rfState = .IDLE
  · exact ⟨s, tick_idle hrf⟩
  · obtain ⟨t, ht⟩ := exists_ticks hradio (leadIn_pos hdata) hrf
    exact ⟨t, ht.answers⟩

theorem tickStep_answers {s : State} (hs : s.Inv) : ∃ t, tickStep s = .next t := by
  rw [tickStep_eq]
  split
  · exact tickHandler_answers hs
  · exact ⟨s, rfl⟩

theorem agentStep_answers {s : State} (a : Agent) (hs : s.Inv) : ∃ t, agentStep a s = .next t := by
  obtain ⟨-, hfg, -, -⟩ := id hs
  cases a with
  | host => exact hostStep_answers s
  | fg => exact fgStep_answers hfg
  | tick => exact tickStep_answers hs

theorem choose_inv {s : State} (hs : s.Inv) : s.choose.2.Inv := by
  rw [choose_frame]
  exact hs

/-- Settles O55: the choice of who moves keeps the invariant, and under it every agent's step answers: the foreground's by
the bounds at its micro-step, the tick's by the counters, the host's always. -/
theorem nothingAborts : Obligations.NothingAborts := by
  intro s hs
  unfold step moveStep
  split
  · exact ⟨_, rfl⟩
  · exact agentStep_answers _ (choose_inv hs)

end Sys2Proof.Machine
end

section
/-! SUPPORT. What a timer period does, and that with ticks possible, and a host that does not clear `GIE`, a tick comes: the
list of turns gets used up, and then the fair round comes nearer with every choice (rules R163 to R165, R167). -/

namespace Sys2Proof.Machine

/-! ### A timer period -/

theorem tickPossible_iff (s : State) : s.tickPossible = true ↔ s.timerOn = true ∧ s.gie = true := Bool.and_eq_true_iff

theorem step_tickTurn {s : State} {later : List Agent} (h : s.turns = .tick :: later) :
    step s = if s.tickPossible then tickHandler { s with turns := later } else .next { s with turns := later } :=
  (step_turn h).trans (tickStep_eq _)

/-- Settles O44: a timer period runs the handler, whose frame this is, or does nothing. -/
theorem tickWritesOnlyRadioState : Obligations.TickWritesOnlyRadioState := by
  intro s t h
  rw [tickStep_eq] at h
  split at h
  · exact tickHandler_frame h
  · cases h
    rfl

/-! ### Ticks stay possible -/

/-- The machine is in order, a tick is possible, and the host will not make it impossible (R163, R165). -/
structure TicksHeld (s : State) : Prop where
  inv : s.Inv
  possible : s.tickPossible = true
  held : HostAct.setGie false ∉ s.hostQ

/-- A move leaves whose turn it is, and takes at most the next act off the host's list. -/
theorem moves_schedule {a : Agent} {s t : State} (h : Moves a s t) :
    t.turns = s.turns ∧ t.fairIn = s.fairIn ∧ t.hostQ ⊆ s.hostQ := by
  cases h with
  | rest => simp
  | refuse hq => simp [hq]
  | issue i hq => rw [issued_frame]; simp [hq]
  | writePtr hq => simp [hq]
  | writeLen hq => simp [hq]
  | setGie hq => simp [hq]
  | store hq => simp [hq]
  | micro hpc ha hu => rw [following_frame, action_frame hu]; simp
  | tick _ ht => rw [tickHandler_frame ht]; simp

theorem step_schedule {s t : State} (h : step s = .next t) :
    t.turns = s.choose.2.turns ∧ t.fairIn = s.choose.2.fairIn ∧ t.hostQ ⊆ s.hostQ := by
  rcases step_moves h with rfl | ⟨a, -, hm⟩
  · simp
  · simpa using moves_schedule hm

/-- `timer_on` is cleared by nothing, and `GIE` by an act of the host alone (R17). -/
theorem TicksHeld.step {s t : State} (hs : TicksHeld s) (h : step s = .next t) : TicksHeld t := by
  obtain ⟨htimer, hgie⟩ := (tickPossible_iff s).1 hs.possible
  obtain ⟨hkeeps, -, hwriter⟩ := controlBitsHaveOneWriter s t h
  obtain ⟨-, -, hsub⟩ := step_schedule h
  refine ⟨stepKeepsTheInvariant s t hs.inv h, (tickPossible_iff t).2 ⟨hkeeps htimer, ?_⟩, fun hm => hs.held (hsub hm)⟩
  by_contra hoff
  obtain ⟨-, hact⟩ := hwriter fun heq => hoff (heq.trans hgie)
  rw [Bool.not_eq_true] at hoff
  rw [hoff] at hact
  exact hs.held (List.mem_of_head? hact)

/-! ### A tick comes -/

/-- Some number of steps on, the next step is a tick, and one that is possible (R165). -/
def TickComes (s : State) : Prop := ∃ n t, stepsFor n s = .next t ∧ t.choose.1 = some .tick ∧ TicksHeld t

theorem TicksHeld.tickComes_now {s : State} (hs : TicksHeld s) (h : s.choose.1 = some .tick) : TickComes s :=
  ⟨0, s, rfl, h, hs⟩

/-- A step leads on to a state in which ticks are held, whose schedule is the one the choice of who moves left. -/
theorem TicksHeld.tickComes_later {s : State} (hs : TicksHeld s)
    (h : ∀ t, TicksHeld t → t.turns = s.choose.2.turns → t.fairIn = s.choose.2.fairIn → TickComes t) :
    TickComes s := by
  obtain ⟨t, ht⟩ := nothingAborts s hs.inv
  obtain ⟨hturns, hfair, -⟩ := step_schedule ht
  obtain ⟨n, u, hu, hlast⟩ := h t (hs.step ht) hturns hfair
  exact ⟨n + 1, u, (stepsFor_cons ht).trans hu, hlast⟩

/-- With the list of turns used up and a tick possible, the tick moves, alone or as a fair round begins, or there is one
more free choice before the fair round. -/
theorem choose_tick_or_free {s : State} (hturns : s.turns = []) (hp : s.tickPossible = true) :
    s.choose.1 = some .tick ∨ s.fairBound ≠ 0 ∧ s.choose = s.freeChoice := by
  obtain ⟨others, hmovers⟩ : ∃ others, s.movers = others ++ [.tick] := ⟨_, congrArg (_ ++ ·) (if_pos hp)⟩
  have hchoose : s.choose = (some .tick, s) ∨ s.choose = s.fairChoice := by
    match others with
    | [] => exact .inl (choose_only hturns hmovers)
    | [_] => exact .inr (choose_several hturns hmovers)
    | _ :: _ :: _ => exact .inr (choose_several hturns hmovers)
  rcases hchoose with h | h
  · exact .inl (by rw [h])
  by_cases hdue : s.fairBound = 0
  · exact .inl (by rw [h, fairChoice_due hdue, fairRound_turn])
  · exact .inr ⟨hdue, h.trans (fairChoice_waits hdue)⟩

/-- By induction on the free choices left before the fair round, which begins with a timer period. -/
theorem TicksHeld.tickComes_fair {s : State} (hs : TicksHeld s) (hturns : s.turns = []) : TickComes s := by
  induction hn : s.fairBound using Nat.strong_induction_on generalizing s with
  | _ n ih =>
    rcases choose_tick_or_free hturns hs.possible with h | ⟨hwait, h⟩
    · exact hs.tickComes_now h
    refine hs.tickComes_later fun t ht hturns' hfair => ih t.fairBound ?_ ht ?_ rfl
    · have hnearer : t.fairBound = s.fairBound - 1 := by
        rw [State.fairBound, hfair, h]
        rfl
      omega
    · rw [hturns', h, freeChoice_turns, hturns]

/-- By induction on the turns listed, each used up by one step. -/
theorem TicksHeld.tickComes {s : State} (hs : TicksHeld s) : TickComes s := by
  induction hl : s.turns generalizing s with
  | nil => exact hs.tickComes_fair hl
  | cons a later ih =>
    refine hs.tickComes_later fun t ht hturns _ => ih ht ?_
    rw [hturns, choose_turn hl]

/-- Settles O43: a tick's turn is a timer period; and while ticks are held possible, the turns listed and then the free
choices run out before the fair round. -/
theorem ticksRunExactlyWhenEnabled : Obligations.TicksRunExactlyWhenEnabled := by
  refine ⟨fun s later hturns => ⟨fun htimer hgie => ?_, fun hoff => ?_⟩, fun s hs htimer hgie hheld => ?_⟩
  · rw [step_tickTurn hturns, if_pos ((tickPossible_iff s).2 ⟨htimer, hgie⟩)]
  · refine (step_tickTurn hturns).trans (if_neg fun hp => ?_)
    obtain ⟨htimer, hgie⟩ := (tickPossible_iff s).1 hp
    simp [htimer, hgie] at hoff
  · obtain ⟨n, t, ht, htick, hheld'⟩ :=
      TicksHeld.tickComes ⟨hs, (tickPossible_iff s).2 ⟨htimer, hgie⟩, hheld⟩
    exact ⟨n, t, ht, htick, hheld'.possible⟩

end Sys2Proof.Machine
end

section
/-! SUPPORT. The delays an operation contains: the shortest time each part of a trace takes, summed (rule R209). -/

namespace Sys2Proof.Machine

@[simp] theorem minDuration_nil (p : Params) : minDuration p [] = 0 := rfl

@[simp] theorem minDuration_cons (p : Params) (e : Event) (es : List Event) :
    minDuration p (e :: es) = e.duration p + minDuration p es := rfl

@[simp] theorem minDuration_append (p : Params) (es es' : List Event) :
    minDuration p (es ++ es') = minDuration p es + minDuration p es' := by
  simp [minDuration]

/-- Parts of one duration take together their number times it. -/
theorem minDuration_flatMap {α : Type} {p : Params} {f : α → List Event} {d : Nat} (h : ∀ x, minDuration p (f x) = d)
    (xs : List α) : minDuration p (xs.flatMap f) = xs.length * d := by
  induction xs with
  | nil => simp
  | cons x xs ih => rw [List.flatMap_cons, minDuration_append, h, ih, List.length_cons, Nat.succ_mul, Nat.add_comm]

/-- The time of one clock pulse (R88). -/
theorem minDuration_writtenBit (p : Params) (b : Bool) : minDuration p (writtenBit b) = p.tLow + p.tHigh := by
  cases b <;> simp [writtenBit, Event.duration, Delay.duration]

/-- A sampled pulse takes two halves of `T_HIGH` (R6, R89). -/
theorem minDuration_sampledPulse (p : Params) (l : Level) : minDuration p (sampledPulse l) = p.tLow + p.tHigh := by
  simp [sampledPulse, Event.duration, Delay.duration, Params.tHigh, Nat.two_mul]

/-- Each byte read is eight sampled pulses and a ninth pulse (R106). -/
theorem minDuration_readTrace (p : Params) (a n : Nat) (e : State) :
    minDuration p (readTrace a n e) = 9 * n * (p.tLow + p.tHigh) := by
  induction n generalizing a e with
  | zero => simp [readTrace]
  | succ n ih =>
    have hrelease : minDuration p (if n = 0 then [] else [Event.d1]) = 0 := by split <;> rfl
    rw [readTrace_succ, minDuration_append, minDuration_append, minDuration_append, minDuration_cons, hrelease, ih,
      minDuration_flatMap (minDuration_sampledPulse p), envAnswers_length, minDuration_writtenBit]
    simp only [Event.duration]
    ring

/-- Settles O31: the events of each operation's run, the delays among them summed. -/
theorem operationsContainTheirDelays : Obligations.OperationsContainTheirDelays := by
  intro s hpc
  refine ⟨?_, ?_, ?_, fun b => ?_, ?_, fun hlen hfits => ?_, ?_⟩
  · rw [(busInit_runs s).issue_shows hpc]
    rfl
  · rw [(busStart_runs s).issue_shows hpc]
    simp only [minDuration_cons, minDuration_nil, Event.duration, Delay.duration]
    ring
  · rw [(busStop_runs s).issue_shows hpc]
    simp only [minDuration_cons, minDuration_nil, Event.duration, Delay.duration]
    ring
  · rw [(busWriteByte_runs b s).issue_shows hpc]
    simp only [minDuration_append, minDuration_cons, minDuration_sampledPulse,
      minDuration_flatMap (minDuration_writtenBit s.params), bitsMsbFirst_length, Event.duration]
    ring
  · rw [(busReadByte_runs s).issue_shows hpc]
    simp only [minDuration_append, minDuration_cons, minDuration_nil, minDuration_writtenBit,
      minDuration_flatMap (minDuration_sampledPulse s.params), envAnswers_length, Event.duration]
    ring
  · rw [(busReadBuffer_runs hlen hfits).issue_shows hpc]
    simp [minDuration_readTrace, Event.duration]
  · rw [(rfInit_runs s).issue_shows hpc]
    rfl

end Sys2Proof.Machine
end

section
/-! SUPPORT. The wait of `RF_TRANSMIT_BUFFER` without ticks, which repeats for ever, and with ticks possible, which ends:
each tick brings the end of the transmission nearer, and after it the fair round gives the foreground its turn (rules R133,
R165, R195). -/

namespace Sys2Proof.Machine

/-! ### Ticks off -/

/-- A turn of the foreground repeats the test of `rf_state`, and a timer period produces nothing (R133, R163). -/
theorem step_wait_off {s : State} {a : Agent} {later : List Agent} (hpc : s.fgPc = .running .rfTransmitBuffer 4)
    (hrf : s.rfState ≠ .IDLE) (hoff : s.tickPossible ≠ true) (ha : a = .fg ∨ a = .tick)
    (hturns : s.turns = a :: later) : step s = .next { s with turns := later } := by
  rcases ha with rfl | rfl
  · have hpc' : ({ s with turns := later } : State).fgPc = .running .rfTransmitBuffer 4 := hpc
    exact (step_turn hturns).trans ((fgStep_running hpc').trans (exec_wait_busy hpc' hrf))
  · exact (step_tickTurn hturns).trans (if_neg hoff)

theorem stepsFor_wait_off {s : State} {a : Agent} {n : Nat} (hpc : s.fgPc = .running .rfTransmitBuffer 4)
    (hrf : s.rfState ≠ .IDLE) (hoff : s.tickPossible ≠ true) (ha : a = .fg ∨ a = .tick)
    (hturns : s.turns = List.replicate n a) : stepsFor n s = .next { s with turns := [] } := by
  induction n generalizing s with
  | zero =>
    rw [← show s.turns = [] from hturns]
    rfl
  | succ n ih =>
    rw [stepsFor_cons (step_wait_off hpc hrf hoff ha hturns)]
    exact ih hpc hrf hoff rfl

/-! ### What a step of the wait can be -/

/-- The host's acts that need not wait change `GIE` or memory (R76). -/
theorem moves_host_running {s t : State} (h : Moves .host s t) (hpc : s.fgPc ≠ .ready) :
    t = { s with gie := t.gie, mem := t.mem, hostQ := t.hostQ } := by
  cases h with
  | rest => rfl
  | setGie _ => rfl
  | store _ => rfl
  | refuse _ hready => exact absurd hready hpc
  | issue _ _ hready => exact absurd hready hpc
  | writePtr _ hready => exact absurd hready hpc
  | writeLen _ hready => exact absurd hready hpc

theorem bitsFrom_length (m : Memory) (a n j : Nat) : (bitsFrom m a n j).length = 8 * n - j := by
  rw [bitsFrom, List.length_drop, bitStream_length, bytesAt_length]

/-- A store into the buffer changes which bits are sent, not how many ticks are left. -/
theorem ticksLeft_length_withMem (s : State) (m : Memory) :
    ({ s with mem := m } : State).ticksLeft.length = s.ticksLeft.length := by
  unfold State.ticksLeft State.bitsLeft State.allBits
  cases s.rfState <;> simp [dataTicks_length, bitsFrom_length]

/-- The wait of `RF_TRANSMIT_BUFFER` while ticks are possible and the host keeps them so. -/
structure WaitHeld (s : State) : Prop extends TicksHeld s where
  pc : s.fgPc = .running .rfTransmitBuffer 4

/-- The operation is complete and the transmission over (R133). -/
structure WaitOver (t : State) : Prop where
  pc : t.fgPc = .ready
  status : t.resStatus = statusOk
  idle : t.rfState = .IDLE

/-- A move of the wait that brings its end no nearer: not the foreground's with the radio idle, and not a tick in
flight. -/
structure Stalls (who : Option Agent) (s t : State) : Prop where
  left : t.ticksLeft.length = s.ticksLeft.length
  notFg : who = some .fg → s.rfState ≠ .IDLE
  notTick : who = some .tick → s.rfState = .IDLE

/-- What a move of the wait leads to: its end, or the wait, with fewer ticks left or stalled. -/
def WaitGoes (who : Option Agent) (s t : State) : Prop :=
  WaitOver t ∨ t.fgPc = .running .rfTransmitBuffer 4 ∧ (t.ticksLeft.length < s.ticksLeft.length ∨ Stalls who s t)

section
variable {s t : State}

theorem WaitHeld.host_goes (hs : WaitHeld s) (h : hostStep s = .next t) : WaitGoes (some .host) s t := by
  have hframe := moves_host_running (hostStep_moves h) (by simp [hs.pc])
  refine .inr ⟨by rw [hframe, hs.pc], .inr ⟨?_, nofun, nofun⟩⟩
  rw [hframe]
  exact ticksLeft_length_withMem { s with gie := t.gie, hostQ := t.hostQ } t.mem

theorem WaitHeld.fg_goes (hs : WaitHeld s) (h : fgStep s = .next t) : WaitGoes (some .fg) s t := by
  rw [fgStep_running hs.pc] at h
  by_cases hrf : s.rfState = .IDLE
  · cases h.symm.trans (exec_wait_idle hs.pc hrf)
    exact .inl ⟨rfl, rfl, hrf⟩
  · cases h.symm.trans (exec_wait_busy hs.pc hrf)
    exact .inr ⟨hs.pc, .inr ⟨rfl, fun _ => hrf, nofun⟩⟩

theorem WaitHeld.tick_goes (hs : WaitHeld s) (h : tickStep s = .next t) : WaitGoes (some .tick) s t := by
  rw [tickStep_eq, if_pos hs.possible] at h
  refine .inr ⟨by rw [tickHandler_frame h, hs.pc], ?_⟩
  by_cases hrf : s.rfState = .IDLE
  · cases h.symm.trans (tick_idle hrf)
    exact .inr ⟨rfl, nofun, fun _ => hrf⟩
  · obtain ⟨hdata, -, -, hradio⟩ := hs.inv
    obtain ⟨u, hu⟩ := exists_ticks hradio (leadIn_pos hdata) hrf
    cases h.symm.trans hu.answers
    exact .inl (by simp [hu.takesOff])

theorem WaitHeld.chosen (hs : WaitHeld s) : WaitHeld s.choose.2 := by
  rw [choose_frame]
  exact ⟨⟨hs.inv, hs.possible, hs.held⟩, hs.pc⟩

/-- A step is a move from the state with the choice of who moves made, which leaves the wait as it is. -/
theorem WaitHeld.step_goes (hs : WaitHeld s) (h : step s = .next t) : WaitGoes s.choose.1 s t := by
  have hgoes : WaitGoes s.choose.1 s.choose.2 t := by
    rcases step_next h with ⟨hnone, rfl⟩ | ⟨a, ha, hstep⟩
    · rw [hnone]
      exact .inr ⟨hs.chosen.pc, .inr ⟨rfl, nofun, nofun⟩⟩
    rw [ha]
    cases a with
    | host => exact hs.chosen.host_goes hstep
    | fg => exact hs.chosen.fg_goes hstep
    | tick => exact hs.chosen.tick_goes hstep
  rw [choose_frame] at hgoes
  exact hgoes.imp_right fun ⟨hpc, hleft⟩ => ⟨hpc, hleft.imp_right fun hst => ⟨hst.left, hst.notFg, hst.notTick⟩⟩

/-! ### The end of the wait -/

/-- Some number of steps on the wait is over, or fewer ticks are left. -/
def Advances (s : State) : Prop :=
  ∃ n t, stepsFor n s = .next t ∧ (WaitOver t ∨ WaitHeld t ∧ t.ticksLeft.length < s.ticksLeft.length)

/-- A step advances the wait, or stalls it and leaves the schedule as the choice of who moves left it. -/
theorem WaitHeld.advances_later (hs : WaitHeld s)
    (h : ∀ t, WaitHeld t → Stalls s.choose.1 s t → t.turns = s.choose.2.turns → t.fairIn = s.choose.2.fairIn →
      Advances t) : Advances s := by
  obtain ⟨t, ht⟩ := nothingAborts s hs.inv
  obtain ⟨hturns, hfair, -⟩ := step_schedule ht
  rcases hs.step_goes ht with hover | ⟨hpc, hleft⟩
  · exact ⟨1, t, stepsFor_cons ht, .inl hover⟩
  have hheld : WaitHeld t := ⟨hs.toTicksHeld.step ht, hpc⟩
  rcases hleft with hless | hst
  · exact ⟨1, t, stepsFor_cons ht, .inr ⟨hheld, hless⟩⟩
  · obtain ⟨n, u, hu, hend⟩ := h t hheld hst hturns hfair
    rw [hst.left] at hend
    exact ⟨n + 1, u, (stepsFor_cons ht).trans hu, hend⟩

/-- With the list of turns used up the foreground and TICK can both move, so the choice is a fair one. -/
theorem WaitHeld.choose_fair (hs : WaitHeld s) (hturns : s.turns = []) : s.choose = s.fairChoice := by
  have hfg : s.fgCanMove = true := by simp [State.fgCanMove, hs.pc]
  have hmovers : s.movers = (if s.hostCanMove then [Agent.host] else []) ++ [.fg, .tick] := by
    simp [State.movers, hfg, hs.possible]
  cases hhost : s.hostCanMove with
  | true => exact choose_several hturns (by rw [hmovers, hhost]; rfl)
  | false => exact choose_several hturns (by rw [hmovers, hhost]; rfl)

/-- By induction on the free choices left before the fair round, whose tick or whose turn of the foreground advances the
wait. -/
theorem WaitHeld.advances_fair (hs : WaitHeld s) (hturns : s.turns = []) : Advances s := by
  induction hn : s.fairBound using Nat.strong_induction_on generalizing s with
  | _ n ih =>
    have hchoose := hs.choose_fair hturns
    refine hs.advances_later fun t ht hst hturns' hfair => ?_
    by_cases hdue : s.fairBound = 0
    · rw [fairChoice_due hdue] at hchoose
      have hidle : s.rfState = .IDLE := hst.notTick (by rw [hchoose, fairRound_turn])
      have hidle' : t.rfState = .IDLE := by
        rw [← ticksLeft_eq_nil, ← List.length_eq_zero_iff, hst.left, ticksLeft_eq_nil.2 hidle, List.length_nil]
      rw [hchoose, fairRound_turns] at hturns'
      exact ht.advances_later fun u _ hst' _ _ => absurd hidle' (hst'.notFg (by rw [choose_turn hturns']))
    · rw [fairChoice_waits hdue] at hchoose
      have hnearer : t.fairBound = s.fairBound - 1 := by
        rw [State.fairBound, hfair, hchoose]
        rfl
      exact ih t.fairBound (by omega) ht (by rw [hturns', hchoose, freeChoice_turns, hturns]) rfl

/-- By induction on the turns listed, each used up by one step. -/
theorem WaitHeld.advances (hs : WaitHeld s) : Advances s := by
  induction hl : s.turns generalizing s with
  | nil => exact hs.advances_fair hl
  | cons a later ih => exact hs.advances_later fun t ht _ hturns _ => ih ht (by rw [hturns, choose_turn hl])

/-- By induction on the ticks left (R165). -/
theorem WaitHeld.ends (hs : WaitHeld s) : ∃ n t, stepsFor n s = .next t ∧ WaitOver t := by
  induction hn : s.ticksLeft.length using Nat.strong_induction_on generalizing s with
  | _ l ih =>
    obtain ⟨n, t, ht, hover | ⟨hheld, hless⟩⟩ := hs.advances
    · exact ⟨n, t, ht, hover⟩
    · obtain ⟨m, u, hu, hover⟩ := ih _ (hn ▸ hless) hheld rfl
      exact ⟨n + m, u, (iterate_trans ht).trans hu, hover⟩

end

/-- Settles O38: without ticks every turn leaves the wait as it is; with ticks possible it ends. -/
theorem waitWithoutTicksNeverEnds : Obligations.WaitWithoutTicksNeverEnds := by
  refine ⟨fun s n a hpc hrf hoff ha => ?_, fun s hs hpc htimer hgie hheld => ?_⟩
  · have hoff' : s.tickPossible ≠ true := fun hp => by
      obtain ⟨htimer, hgie⟩ := (tickPossible_iff s).1 hp
      simp [htimer, hgie] at hoff
    exact stepsFor_wait_off (s := { s with turns := List.replicate n a }) hpc hrf hoff' ha rfl
  · obtain ⟨n, t, ht, hover⟩ := WaitHeld.ends ⟨⟨hs, (tickPossible_iff s).2 ⟨htimer, hgie⟩, hheld⟩, hpc⟩
    exact ⟨n, t, ht, hover.pc, hover.status, hover.idle⟩

end Sys2Proof.Machine
end

section
/-! SUPPORT. No step reads a duration, and no move reads the list of turns: a step commutes with a change of these and
shows the same events (rules R199, R208). -/

namespace Sys2Proof.Machine

/-- A change of the durations of R6 and of the list of turns, each from what it was. -/
structure Retiming where
  tHalf : Nat → Nat
  tLow : Nat → Nat
  bitRate : Nat → Nat
  turns : List Agent → List Agent

/-- The state with its durations and its list of turns changed. -/
def State.retimed (r : Retiming) (s : State) : State :=
  { s with
    params := { s.params with
      tHalf := r.tHalf s.params.tHalf
      tLow := r.tLow s.params.tLow
      bitRate := r.bitRate s.params.bitRate }
    turns := r.turns s.turns }

/-- The durations set to given values, the turns as they are. -/
def Retiming.durations (h l b : Nat) : Retiming := ⟨fun _ => h, fun _ => l, fun _ => b, id⟩

/-- The turns set to a given list, the durations as they are. -/
def Retiming.schedule (ts : List Agent) : Retiming := ⟨id, id, id, fun _ => ts⟩

/-- A step that does not read what a retiming changes commutes with it. -/
def Blind (r : Retiming) (f : State → Result) : Prop :=
  ∀ s, f (s.retimed r) = mapNext (f s) (State.retimed r)

section
variable (r : Retiming)

/-! ### Micro-steps -/

theorem pinRead_retimed (s : State) (X : Line) :
    (s.retimed r).pinRead X = ((s.pinRead X).1, (s.pinRead X).2.retimed r) := by
  have hdrive : (s.retimed r).drive X = s.drive X := by cases X <;> rfl
  have henv : (s.retimed r).envAnswer = (s.envAnswer.1, s.envAnswer.2.retimed r) := by
    have hq : (s.retimed r).envQ = s.envQ := rfl
    simp only [State.envAnswer, hq]
    cases s.envQ <;> rfl
  simp only [State.pinRead, hdrive]
  cases s.drive X with
  | Z => exact henv
  | PU => exact henv
  | D0 => rfl

theorem sourceBit_retimed (b : BitSource) (s : State) : sourceBit b (s.retimed r) = sourceBit b s := by
  cases b <;> rfl

theorem action_blind (a : Action) : Blind r a.run := by
  intro s
  cases a with
  | release X => cases X <;> rfl
  | pullup X => cases X <;> rfl
  | low X => cases X <;> rfl
  | sampleSda =>
    simp only [Action.run, pinRead_retimed]
    rfl
  | sda b =>
    simp only [Action.run, sourceBit_retimed]
    cases sourceBit b s with
    | none => rfl
    | some v => cases v <;> rfl
  | storeByte =>
    have hin : (s.retimed r).inSpace (storeAddress (s.retimed r)) = s.inSpace (storeAddress s) := rfl
    change (s.retimed r).memWrite (storeAddress (s.retimed r)) s.sh = mapNext (s.memWrite (storeAddress s) s.sh) _
    simp only [State.memWrite, hin]
    split <;> rfl
  | _ => rfl

theorem event_retimed (a : Action) (s : State) : a.event (s.retimed r) = a.event s := by
  cases a with
  | sampleSda => simp only [Action.event, pinRead_retimed]
  | sda b => simp only [Action.event, sourceBit_retimed]
  | _ => rfl

theorem straight_retimed (op : Op) (p : List Action) (k : Nat) (s : State) :
    straight op p k (s.retimed r) = (straight op p k s).retimed r := by
  unfold straight
  rw [apply_ite (State.retimed r)]
  rfl

theorem busWriteByteAfter_retimed (k : Nat) (s : State) :
    busWriteByteAfter k (s.retimed r) = (busWriteByteAfter k s).retimed r := by
  unfold busWriteByteAfter
  split
  · rfl
  · rw [apply_ite (State.retimed r)]; rfl
  · rfl
  · rfl

theorem busReadByteAfter_retimed (k : Nat) (s : State) :
    busReadByteAfter k (s.retimed r) = (busReadByteAfter k s).retimed r := by
  unfold busReadByteAfter
  split
  · rfl
  · rw [apply_ite (State.retimed r)]; rfl
  · rfl
  · rfl

theorem busReadBufferAfter_retimed (k : Nat) (s : State) :
    busReadBufferAfter k (s.retimed r) = (busReadBufferAfter k s).retimed r := by
  unfold busReadBufferAfter
  split
  · rfl
  · rw [apply_ite (State.retimed r)]; rfl
  · rw [apply_ite (State.retimed r)]; rfl
  · rfl
  · rfl

theorem rfTransmitBufferAfter_retimed (k : Nat) (s : State) :
    rfTransmitBufferAfter k (s.retimed r) = (rfTransmitBufferAfter k s).retimed r := by
  unfold rfTransmitBufferAfter
  split
  · rw [apply_ite (State.retimed r)]; rfl
  · rw [apply_ite (State.retimed r)]; rfl
  · rfl

theorem following_retimed (op : Op) (k : Nat) (s : State) :
    following op k (s.retimed r) = (following op k s).retimed r := by
  cases op with
  | busInit => exact straight_retimed r _ _ k s
  | busStart => exact straight_retimed r _ _ k s
  | busStop => exact straight_retimed r _ _ k s
  | busWriteByte => exact busWriteByteAfter_retimed r k s
  | busReadByte => exact busReadByteAfter_retimed r k s
  | busReadBuffer => exact busReadBufferAfter_retimed r k s
  | rfInit => exact straight_retimed r _ _ k s
  | rfTransmitBuffer => exact rfTransmitBufferAfter_retimed r k s
  | rfTransmitPacket => rfl

theorem issued_retimed (i : Instr) (s : State) : issued i (s.retimed r) = (issued i s).retimed r := by
  have hfits : (s.retimed r).bufferFits = s.bufferFits := rfl
  have hlen : (s.retimed r).argLen = s.argLen := rfl
  cases i with
  | busReadBuffer =>
    simp only [issued, State.acceptReadBuffer, hfits, hlen]
    split
    · rfl
    · split <;> rfl
  | rfTransmitBuffer =>
    simp only [issued, State.acceptTransmit, hfits, hlen]
    split
    · rfl
    · split <;> rfl
  | _ => rfl

/-! ### The agents -/

theorem mapNext_mapNext_comm {x : Result} {f g : State → State} (h : ∀ s, f (g s) = g (f s)) :
    mapNext (mapNext x g) f = mapNext (mapNext x f) g := by
  cases x with
  | next s => exact congrArg _ (h s)
  | fault e => rfl
  | refused e => rfl

theorem exec_blind (i : Instr) : Blind r (exec i) := by
  intro s
  have hpc : (s.retimed r).fgPc = s.fgPc := rfl
  rw [exec_eq_foreground, exec_eq_foreground]
  simp only [foreground, hpc]
  cases s.fgPc with
  | ready => exact congrArg _ (issued_retimed r i s)
  | running op k =>
    simp only
    split
    · cases (programOf (opOf i))[k]? with
      | none => rfl
      | some a =>
        simp only [action_blind r a s]
        exact mapNext_mapNext_comm (following_retimed r _ k)
    · rfl

theorem fgStep_blind : Blind r fgStep := by
  intro s
  cases hpc : s.fgPc with
  | ready => rw [fgStep_ready hpc, fgStep_ready (s := s.retimed r) hpc]; rfl
  | running op k => rw [fgStep_running hpc, fgStep_running (s := s.retimed r) hpc]; exact exec_blind r _ s

theorem fgEvents_retimed (s : State) : fgEvents (s.retimed r) = fgEvents s := by
  have hpc : (s.retimed r).fgPc = s.fgPc := rfl
  simp only [fgEvents, hpc, event_retimed]

theorem tickHandler_blind : Blind r tickHandler := by
  intro s
  have hrf : (s.retimed r).rfState = s.rfState := rfl
  simp only [tickHandler, hrf]
  cases s.rfState with
  | BIT_PHASE1 =>
    have hload : (s.retimed r).memRead (loadAddress (s.retimed r)) = s.memRead (loadAddress s) := rfl
    have hbit : (s.retimed r).bitIdx = s.bitIdx := rfl
    simp only [tickBitPhase1, hload, hbit]
    cases s.memRead (loadAddress s) with
    | none => rfl
    | some v =>
      simp only
      cases currentBit v s.bitIdx <;> rfl
  | _ => rfl

theorem tickStep_blind : Blind r tickStep := by
  intro s
  have hp : (s.retimed r).tickPossible = s.tickPossible := rfl
  rw [tickStep_eq, tickStep_eq, hp]
  split
  · exact tickHandler_blind r s
  · rfl

theorem tickEvents_retimed (s : State) : tickEvents (s.retimed r) = tickEvents s := by
  have hp : (s.retimed r).tickPossible = s.tickPossible := rfl
  simp only [tickEvents, hp, tickHandler_blind r s]
  cases tickHandler s <;> rfl

theorem hostAct_blind (a : HostAct) : Blind r a.run := by
  intro s
  cases a with
  | issue w =>
    simp only [HostAct.run, issueWord]
    cases decode w with
    | ok i => exact exec_blind r i s
    | error why => rfl
  | _ => rfl

theorem hostStep_blind : Blind r hostStep := by
  intro s
  have hq : (s.retimed r).hostQ = s.hostQ := rfl
  have hcan : (s.retimed r).hostCanMove = s.hostCanMove := rfl
  simp only [hostStep, hq, hcan]
  cases s.hostQ with
  | nil => rfl
  | cons a acts =>
    simp only
    split
    · exact hostAct_blind r a { s with hostQ := acts }
    · rfl

theorem moveStep_blind (who : Option Agent) : Blind r (moveStep who) :=
  match who with
  | none => fun _ => rfl
  | some .host => hostStep_blind r
  | some .fg => fgStep_blind r
  | some .tick => tickStep_blind r

end

/-! ### Durations -/

theorem choose_retimed {h l b : Nat} (s : State) : (s.retimed (.durations h l b)).choose =
    (s.choose.1, s.choose.2.retimed (.durations h l b)) := by
  have hturns : (s.retimed (.durations h l b)).turns = s.turns := rfl
  have hmovers : (s.retimed (.durations h l b)).movers = s.movers := rfl
  have hbound : (s.retimed (.durations h l b)).fairBound = s.fairBound := rfl
  unfold State.choose
  rw [hturns, hmovers]
  cases s.turns with
  | cons a later => rfl
  | nil =>
    match s.movers with
    | [] => rfl
    | [_] => rfl
    | _ :: _ :: _ =>
      simp only [State.fairChoice, hbound]
      split <;> rfl

/-- Settles O60: the choice of who moves, every move and every event read no duration. -/
theorem durationsNeverMatter : Obligations.DurationsNeverMatter := by
  intro s h l b
  change step (s.retimed (.durations h l b)) = mapNext (step s) (State.retimed (.durations h l b)) ∧
    stepEvents (s.retimed (.durations h l b)) = stepEvents s
  constructor
  · unfold step
    rw [choose_retimed]
    exact moveStep_blind _ _ _
  · simp only [stepEvents, choose_retimed, fgEvents_retimed, tickEvents_retimed]

end Sys2Proof.Machine
end

section
/-! SUPPORT. Ticks while the radio is idle: they change only whose turn it is, and show no bus event (rules R136, R169,
R199). -/

namespace Sys2Proof.Machine

/-- The radio is idle and no operation in progress arms it: a tick does nothing, now or later (R136). -/
structure RadioAside (s : State) : Prop where
  idle : s.rfState = .IDLE
  noWait : ∀ k, s.fgPc ≠ .running .rfTransmitBuffer k

theorem RadioAside.retimed {s : State} (r : Retiming) (hs : RadioAside s) : RadioAside (s.retimed r) :=
  ⟨hs.idle, hs.noWait⟩

/-- No operation but `RF_TRANSMIT_BUFFER` arms the radio, and the foreground leaves an operation only for `READY`. -/
theorem RadioAside.fgStep_keeps {s t : State} (hs : RadioAside s) (h : fgStep s = .next t) : RadioAside t := by
  cases fgStep_moves h with
  | rest => exact hs
  | @micro _ u op k a hpc ha hu =>
    have hop : op ≠ .rfTransmitBuffer := fun heq => hs.noWait k (heq ▸ hpc)
    refine ⟨?_, fun k' => ?_⟩
    · rw [following_rfState]
      rcases (action_writes hu).rfState with hkeeps | hwrite
      · exact hkeeps.trans hs.idle
      · rw [hwrite] at ha
        rcases rfWrite_at ha with ⟨-, -, hidle⟩ | ⟨hop', -, -⟩
        · exact hidle
        · exact absurd hop' hop
    · have hupc : u.fgPc = .running op k := by rw [action_frame hu, hpc]
      rcases following_fgPc hupc (microStep_lt ha) with ⟨k'', -, hgoes⟩ | ⟨hready, -⟩
      · simpa [hgoes] using fun heq => absurd heq hop
      · simp [hready]

theorem RadioAside.tickStep_rests {s : State} (hs : RadioAside s) : tickStep s = .next s := by
  rw [tickStep_eq, tick_idle hs.idle, ite_self]

theorem event_onBus (a : Action) (s : State) : (a.event s).filter Event.onBus = a.event s := by
  cases a with
  | release X => cases X <;> rfl
  | pullup X => cases X <;> rfl
  | low X => cases X <;> rfl
  | delay d => cases d <;> rfl
  | sda b =>
    simp only [Action.event]
    cases sourceBit b s with
    | none => rfl
    | some v => cases v <;> rfl
  | storeByte =>
    simp only [Action.event]
    split <;> rfl
  | _ => rfl

/-- Every event of the foreground is a bus event (R93). -/
theorem fgEvents_onBus (s : State) : (fgEvents s).filter Event.onBus = fgEvents s := by
  unfold fgEvents
  split
  · rfl
  · split
    · exact event_onBus _ s
    · rfl

theorem tickEvents_onBus (s : State) : (tickEvents s).filter Event.onBus = [] := by
  unfold tickEvents
  split
  · cases tickHandler s <;> rfl
  · rfl

theorem stepEvents_turn {s : State} {a : Agent} {later : List Agent} (h : s.turns = a :: later) :
    (stepEvents s).filter Event.onBus = if a = .fg then fgEvents s else [] := by
  simp only [stepEvents, choose_turn h]
  cases a with
  | host => rfl
  | fg => exact (fgEvents_onBus _).trans (fgEvents_retimed (.schedule later) s)
  | tick => exact tickEvents_onBus _

theorem trace_cons {s t : State} {n : Nat} (h : step s = .next t) :
    (trace (n + 1) s).filter Event.onBus =
      (stepEvents s).filter Event.onBus ++ (trace n t).filter Event.onBus := by
  rw [trace, observe_succ_next h, List.filter_append]
  rfl

/-- A turn of the foreground is a foreground step, which does not read the turns after it. -/
theorem step_fgTurn {s : State} {later : List Agent} (h : s.turns = .fg :: later) :
    step s = mapNext (fgStep s) (State.retimed (.schedule later)) :=
  (step_turn h).trans (fgStep_blind (.schedule later) s)

/-- A turn of the tick leaves everything but the list of turns (R136). -/
theorem RadioAside.step_tickTurn {s : State} {later : List Agent} (hs : RadioAside s) (h : s.turns = .tick :: later) :
    step s = .next (s.retimed (.schedule later)) :=
  (step_turn h).trans (hs.retimed (.schedule later)).tickStep_rests

/-- By induction on the turns, of which only the foreground's do anything. -/
theorem RadioAside.run_turns {s : State} {ts rest : List Agent} (hs : RadioAside s)
    (hts : ∀ a ∈ ts, a = .fg ∨ a = .tick) (hturns : s.turns = ts ++ rest) :
    stepsFor ts.length s = iterate fgStep (ts.count .fg) (s.retimed (.schedule rest)) ∧
      (trace ts.length s).filter Event.onBus =
        observe fgStep fgEvents (ts.count .fg) (s.retimed (.schedule rest)) := by
  induction ts generalizing s with
  | nil =>
    rw [← show s.turns = rest from hturns]
    exact ⟨rfl, rfl⟩
  | cons a ts ih =>
    have hts' := fun b hb => hts b (List.mem_cons_of_mem a hb)
    have hevents := stepEvents_turn hturns
    rw [List.length_cons]
    rcases hts a List.mem_cons_self with rfl | rfl
    · have hstep := step_fgTurn hturns
      have hrest := fgStep_blind (.schedule rest) s
      have hshows := fgEvents_retimed (.schedule rest) s
      rw [List.count_cons_self]
      cases hfg : fgStep s with
      | next t =>
        rw [hfg] at hstep hrest
        obtain ⟨hrun, htrace⟩ := ih ((hs.fgStep_keeps hfg).retimed (.schedule _)) hts' rfl
        rw [stepsFor_cons hstep, trace_cons hstep, iterate_succ, observe_succ_next hrest, hrest, hevents, hshows]
        exact ⟨hrun, congrArg (fgEvents s ++ ·) htrace⟩
      | _ e =>
        rw [hfg] at hstep hrest
        simp [stepsFor, trace, iterate, observe, hstep, hrest, hshows, hevents]
    · have hstep := hs.step_tickTurn hturns
      rw [stepsFor_cons hstep, trace_cons hstep, hevents, List.count_cons_of_ne (by decide)]
      exact ih (hs.retimed (.schedule _)) hts' rfl

/-- Settles O59: without `RF_TRANSMIT_BUFFER` in progress the idle radio stays idle, and only the foreground's turns
count. -/
theorem idleTicksNeverDisturbTheBus : Obligations.IdleTicksNeverDisturbTheBus := by
  intro s ts rest op k hrf hpc hop hts hturns
  have hs : RadioAside s := ⟨hrf, fun k' heq => hop (FgPc.running.inj (hpc.symm.trans heq)).1⟩
  exact hs.run_turns hts hturns

end Sys2Proof.Machine
end
